-- ==== Sys2Proof/Word.lean ====
section
/-! DEFINITION. The word types of the block (`00_scope.md` R11: every quantity is unsigned). -/

namespace Sys2Proof

/-- A byte, R11. -/
abbrev Byte := BitVec 8

/-- A 16-bit unsigned value, R11: a concentration field, a checksum. -/
abbrev U16 := BitVec 16

/-- A 32-bit unsigned value, R11: the sample counter. -/
abbrev U32 := BitVec 32

/-- One word of the command port, R74. -/
abbrev CmdWord := BitVec 12

/-- The response value of an output record, R40. -/
abbrev Rsp := BitVec 48

end Sys2Proof
end

