-- ==== Sys2Proof/Config.lean ====
section
/-! DEFINITION. The implementation parameters of `00_scope.md` R9 and the free value of the model. -/

namespace Sys2Proof

/-- `FRAME_LEN`, R9: bytes in one RawFrame. -/
abbrev Config.FRAME_LEN : Nat := 24

/-- `HDR0`, R9 and R71: the first header byte. -/
abbrev Config.HDR0 : Byte := 0x42#8

/-- `HDR1`, R9 and R71: the second header byte. -/
abbrev Config.HDR1 : Byte := 0x4D#8

/-- `SUM_LEN`, R9 and R120: how many leading frame bytes the checksum covers. -/
abbrev Config.SUM_LEN : Nat := 22

/-- The named parameters of one block, R9 and R10.
`AGG_POLICY` (latest-only), `OVF_POLICY` (flush) and `NODATA_COUNTS` (yes) are fixed by the spec and are the rules
themselves. `FIFO_DEPTH`, `SETTLE_DELAY` and `CYCLE_PERIOD` are read by no rule. -/
structure Params where
  /-- `CAP`: FrameBuffer capacity in bytes. -/
  cap : Nat
  /-- `THRESHOLD`: the channel reset is requested when `consecutive_failures` exceeds it. -/
  threshold : Nat
deriving DecidableEq, Repr

/-- The values this hardware takes, R9: `CAP = 256` (the default), `THRESHOLD = 2`. -/
def Config.standard : Params := { cap := 256, threshold := 2 }

/-- The byte a cell of `buf` holds that no PUSH has written since power-on or the last hardware reset, by reset epoch
and address: unspecified (R45, R222, U1). A free value: it has no body, so nothing can be proved of it.
DESIGN CHOICE (notes/assumptions/5.md): a function of epoch and address, so that loads are idempotent (R56). Safe. -/
opaque Config.unspecifiedByte : Nat → Nat → Byte

end Sys2Proof
end

