-- ==== Sys2Proof/Syntax.lean ====
section
/-! DEFINITION. The commands: one constructor a row of `opcode_table.json` (`30_encoding.md` R75, R77), and one line of
the textual trace syntax (R84). -/

namespace Sys2Proof

/-- The command set, R75, and the reserved code, R77. Only PUSH has an operand; the `data` field of every other
command is ignored (R76) and masked off by the decoder (U3, notes/assumptions/8.md). -/
inductive Instr where
  | nop
  | start
  | push (b : Byte)
  | scan
  | next
  | stop
  | evFifoOvf
  | evBufFull
  | evBreak
  | evParity
  | evFrame
  | readLatest
  | readCount
  | readHealthy
  | readStatus
  | reservedF
deriving DecidableEq, Repr

/-- The mnemonics of R75 that a line of the trace syntax may use (the reserved code has none). -/
inductive Mnemonic where
  | NOP
  | START
  | PUSH
  | SCAN
  | NEXT
  | STOP
  | EV_FIFO_OVF
  | EV_BUF_FULL
  | EV_BREAK
  | EV_PARITY
  | EV_FRAME
  | READ_LATEST
  | READ_COUNT
  | READ_HEALTHY
  | READ_STATUS
deriving DecidableEq, Repr

/-- One non-blank line of the trace syntax, R84, as written: a mnemonic and the operand, if one is written. -/
structure Line where
  mnemonic : Mnemonic
  operand : Option Nat
deriving DecidableEq, Repr

end Sys2Proof
end

