-- ==== Sys2Proof/WellFormed.lean ====
section
/-! DEFINITION. What must hold of a term before the rules speak of it. A command needs no check: its one operand is a
byte by its type, and every value of it is legal (`30_encoding.md` R76). The parameters have legal ranges (R10, D22), and
a line of the trace syntax has an operand exactly where R84 says so. -/

namespace Sys2Proof

/-- The legal parameters: `24 <= CAP <= 65535` (R10) and `THRESHOLD` in 0..254 (R9, D22). -/
abbrev Params.wf (p : Params) : Prop :=
  24 ≤ p.cap ∧ p.cap ≤ 65535 ∧ p.threshold ≤ 254

/-- The integration requirement of R10, which no rule of the block checks: `CAP >= 24 + FIFO_DEPTH`. -/
abbrev Params.fitsFifo (p : Params) (fifoDepth : Nat) : Prop :=
  24 + fifoDepth ≤ p.cap

/-- R84: PUSH takes one operand, a byte; no other command takes an operand. -/
def Line.wf (l : Line) : Bool :=
  match l.mnemonic, l.operand with
  | .PUSH, some b => decide (b < 256)
  | .PUSH, none => false
  | _, some _ => false
  | _, none => true

end Sys2Proof
end

