-- ==== Sys2Proof/Decode.lean ====
section
/-! DEFINITION. The command word CMD12 (`30_encoding.md` R74 to R77): decoder, encoder, and the entry the host uses. -/

namespace Sys2Proof

/-- `op = word[11:8]`, R74. -/
def opField (w : CmdWord) : BitVec 4 := w.extractLsb' 8 4

/-- `data = word[7:0]`, R74. -/
def dataField (w : CmdWord) : Byte := w.extractLsb' 0 8

/-- The decoder, R74 to R77. Every 12-bit word is a command: 15 codes execute by a rule of their own, and code 0xF (the
last line, the one value of four bits that is left) is the reserved code. `data` is read for PUSH only. -/
def decode (w : CmdWord) : Instr :=
  match (opField w).toNat with
  | 0x0 => .nop
  | 0x1 => .start
  | 0x2 => .push (dataField w)
  | 0x3 => .scan
  | 0x4 => .next
  | 0x5 => .stop
  | 0x6 => .evFifoOvf
  | 0x7 => .evBufFull
  | 0x8 => .evBreak
  | 0x9 => .evParity
  | 0xA => .evFrame
  | 0xB => .readLatest
  | 0xC => .readCount
  | 0xD => .readHealthy
  | 0xE => .readStatus
  | _ => .reservedF

/-- Why a number is not a word of the command port. -/
inductive DecodeReject where
  /-- The number needs more than the 12 bits the port has (R74: every command is one 12-bit word).
  DESIGN CHOICE (notes/assumptions/9.md). Safe: the port cannot carry such a word. -/
  | widerThanPort (w : Nat)
deriving DecidableEq, Repr

/-- The decoder on a number of any size: a number the 12-bit port cannot carry is rejected by name. -/
def decodeRaw (w : Nat) : Except DecodeReject Instr :=
  if w < 4096 then .ok (decode (BitVec.ofNat 12 w)) else .error (.widerThanPort w)

/-- The command code of each command, R75 and R77. -/
def opcode : Instr → BitVec 4
  | .nop => 0x0#4
  | .start => 0x1#4
  | .push _ => 0x2#4
  | .scan => 0x3#4
  | .next => 0x4#4
  | .stop => 0x5#4
  | .evFifoOvf => 0x6#4
  | .evBufFull => 0x7#4
  | .evBreak => 0x8#4
  | .evParity => 0x9#4
  | .evFrame => 0xA#4
  | .readLatest => 0xB#4
  | .readCount => 0xC#4
  | .readHealthy => 0xD#4
  | .readStatus => 0xE#4
  | .reservedF => 0xF#4

/-- The `data` field the encoder writes: PUSH's byte, and 0 for every other command (R76: a host should send 0). -/
def operandByte : Instr → Byte
  | .push b => b
  | .nop => 0#8
  | .start => 0#8
  | .scan => 0#8
  | .next => 0#8
  | .stop => 0#8
  | .evFifoOvf => 0#8
  | .evBufFull => 0#8
  | .evBreak => 0#8
  | .evParity => 0#8
  | .evFrame => 0#8
  | .readLatest => 0#8
  | .readCount => 0#8
  | .readHealthy => 0#8
  | .readStatus => 0#8
  | .reservedF => 0#8

/-- The encoder, R74 and R84: `op * 256 + data`. -/
def encode (i : Instr) : CmdWord := opcode i ++ operandByte i

/-- The instruction the decoder reads from a word numbered as `opcode_table.json` numbers it; every bit above `nbits`
is 0, so the number alone says the word. -/
def decodeTableWord (_nbits w : Nat) : Option Instr :=
  match decodeRaw w with
  | .ok i => some i
  | .error _ => none

end Sys2Proof
end

