-- ==== Sys2Proof/Machine/State.lean ====
section
/-! DEFINITION. The state of the block (`10_state.md`), as plain data, and the state after hardware reset (R45). -/

namespace Sys2Proof.Machine

/-- The acquisition FSM, R23 and R80. Code 7 "never occurs" (R35 (c)): it cannot be built (U5, notes/assumptions/10.md). -/
inductive Fsm where
  | idle
  | reading
  | success
  | noFrame
  | checksumFail
  | linkError
  | stopped
deriving DecidableEq, Repr

/-- The error register, R28 and R81. Codes 6 and 7 "never occur": they cannot be built (U5). -/
inductive Err where
  | none
  | noDataAvailable
  | noValidFrameFound
  | checksumMismatch
  | bufferOverflow
  | linkEvent
deriving DecidableEq, Repr

/-- The failures the block can raise, R190. -/
inductive Failure where
  | noDataAvailable
  | noValidFrameFound
  | checksumMismatch
  | bufferOverflow
  | linkEvent
deriving DecidableEq, Repr

/-- The output record of one step, R40: every field 0 unless the command's rule sets it. -/
structure Out where
  reject : Bool := false
  flush_req : Bool := false
  chan_reset_req : Bool := false
  queue_reset_req : Bool := false
  buf_overflow : Bool := false
  rsp : Rsp := 0#48
deriving DecidableEq, Repr

/-- What the host presents to the block, one item a step. -/
inductive PortItem where
  /-- A word on the command port, R74. -/
  | command (w : CmdWord)
  /-- The reset input, R220, alone or together with a command word, which is then not executed (U8). -/
  | hardReset (abandoned : Option CmdWord)
deriving DecidableEq, Repr

/-- The cells of `buf` that have been written, address and byte, addresses strictly rising; an address that is not
listed holds no value of the model's (its byte is `Config.unspecifiedByte`). -/
abbrev Memory := List Host.Cell

/-- The state of the machine. The fields from `pm1` to `len` are the record `S` of `10_state.md`. -/
structure State where
  /-- `CAP` and `THRESHOLD`, R9: fixed for one block, written by no step (notes/assumptions/4.md). -/
  cfg : Params
  /-- R20. -/
  pm1 : U16
  /-- R20. -/
  pm2_5 : U16
  /-- R20. -/
  pm10 : U16
  /-- R21. -/
  sample_count : U32
  /-- R22. -/
  consecutive_failures : BitVec 8
  /-- R23. -/
  state : Fsm
  /-- R24. -/
  healthy : Bool
  /-- R25. -/
  ovf : Bool
  /-- R26. -/
  link_err : Bool
  /-- R27. -/
  stop_req : Bool
  /-- R28. -/
  err : Err
  /-- R29. -/
  buf : Memory
  /-- R30: the write pointer and fill count, an integer `0 <= len <= CAP`. -/
  len : Nat
  /-- The model's own: how often the contents of `buf` became unspecified again (notes/assumptions/5.md). -/
  epoch : Nat
  /-- The model's own: what the host will present, head first (notes/assumptions/1.md). -/
  port : List PortItem
  /-- The model's own: the output records so far, newest first (U9, notes/assumptions/2.md). -/
  trace : List Out
deriving DecidableEq, Repr

/-- Why the machine can stop. The block itself has no such condition (R52, R193). -/
inductive Fault where
  /-- An access to a cell outside `buf[0 .. CAP-1]`. Raised by PUSH and SCAN, only in a state with `len > CAP` (or
  `CAP = 0`), which no run reaches: R52, "an out-of-range access is unreachable, not trapped".
  DESIGN CHOICE (notes/assumptions/7.md). Safe: the model stops where the spec has no rule. -/
  | outsideBuffer (addr : Nat)
deriving DecidableEq, Repr

/-- Why an instruction can have no meaning. -/
inductive Refusal where
  /-- An instruction whose meaning is not written yet: raised by `exec`'s refused arms, of which there are none.
  Safe: no step is claimed. -/
  | notModelled (mnemonic : String)
deriving DecidableEq, Repr

/-- The block with parameters `p` after hardware reset, R45, with nothing at the port and an empty trace.
The contents of `buf` are unspecified: no cell is listed. -/
def State.resetWith (p : Params) : State where
  cfg := p
  pm1 := 0#16
  pm2_5 := 0#16
  pm10 := 0#16
  sample_count := 0#32
  consecutive_failures := 0#8
  state := .idle
  healthy := true
  ovf := false
  link_err := false
  stop_req := false
  err := .none
  buf := []
  len := 0
  epoch := 0
  port := []
  trace := []

/-- The machine right after reset, R45, with the parameters of R9. -/
def State.reset : State := State.resetWith Config.standard

end Sys2Proof.Machine
end

