-- ==== Sys2Proof/Machine/Operands.lean ====
section
/-! DEFINITION. Operand assembly (`30_encoding.md` R72, R73): two bytes to a 16-bit value, the RawFrame and the values at
its fixed offsets. -/

namespace Sys2Proof.Machine

/-- `be16(hi, lo) = hi * 256 + lo`, R13 and R54: the first argument is the byte at the lower index. -/
def be16 (hi lo : Byte) : U16 := BitVec.ofNat 16 (hi.toNat * 256 + lo.toNat)

/-- The high byte of a 16-bit value, `v[15:8]`. -/
def hiByte (v : U16) : Byte := v.extractLsb' 8 8

/-- The low byte of a 16-bit value, `v[7:0]`. -/
def loByte (v : U16) : Byte := v.extractLsb' 0 8

/-- A RawFrame: "an ordered sequence of exactly 24 bytes. Invariant: length == 24" (R113). -/
structure RawFrame where
  bytes : List Byte
  size : bytes.length = Config.FRAME_LEN
deriving DecidableEq, Repr

/-- Frame byte `k`, R70. -/
def RawFrame.byte (f : RawFrame) (k : Fin Config.FRAME_LEN) : Byte :=
  f.bytes[k.val]'(by rw [f.size]; exact k.isLt)

/-- A list of bytes as a RawFrame, when it has exactly 24 of them. -/
def RawFrame.ofBytes (l : List Byte) : Option RawFrame :=
  if h : l.length = Config.FRAME_LEN then some ⟨l, h⟩ else none

/-- The frame with byte `k` replaced (R125 speaks of such frames). -/
def RawFrame.set (f : RawFrame) (k : Fin Config.FRAME_LEN) (b : Byte) : RawFrame :=
  ⟨f.bytes.set k.val b, by rw [List.length_set, f.size]⟩

/-- The decoded triple of one frame (R17, "Reading"). -/
structure Reading where
  pm1 : U16
  pm2_5 : U16
  pm10 : U16
deriving DecidableEq, Repr

/-- The stored checksum, R73: `f[22]*256 + f[23]`. -/
def RawFrame.stored (f : RawFrame) : U16 := be16 (f.byte 22) (f.byte 23)

end Sys2Proof.Machine
end

