-- ==== Sys2Proof/Machine/Flags.lean ====
section
/-! DEFINITION. State and error codes (`30_encoding.md` R80, R81), the classes of failures (R190), the counters'
arithmetic (R141, R196) and the STATUS view (`10_state.md` R33). -/

namespace Sys2Proof.Machine

/-- The code of `state`, R80. -/
def Fsm.code : Fsm → BitVec 3
  | .idle => 0#3
  | .reading => 1#3
  | .success => 2#3
  | .noFrame => 3#3
  | .checksumFail => 4#3
  | .linkError => 5#3
  | .stopped => 6#3

/-- "Terminal state: one of Success, NoFrame, ChecksumFail, LinkError", R18. -/
def Fsm.isTerminal : Fsm → Bool
  | .success => true
  | .noFrame => true
  | .checksumFail => true
  | .linkError => true
  | .idle => false
  | .reading => false
  | .stopped => false

/-- The code of `err`, R81. -/
def Err.code : Err → BitVec 3
  | .none => 0#3
  | .noDataAvailable => 1#3
  | .noValidFrameFound => 2#3
  | .checksumMismatch => 3#3
  | .bufferOverflow => 4#3
  | .linkEvent => 5#3

/-- The error a failure records in `err`, R190. -/
def Failure.err : Failure → Err
  | .noDataAvailable => .noDataAvailable
  | .noValidFrameFound => .noValidFrameFound
  | .checksumMismatch => .checksumMismatch
  | .bufferOverflow => .bufferOverflow
  | .linkEvent => .linkEvent

/-- The terminal state of a failure, R190 and R196. -/
def Failure.terminal : Failure → Fsm
  | .noDataAvailable => .noFrame
  | .noValidFrameFound => .noFrame
  | .checksumMismatch => .checksumFail
  | .bufferOverflow => .linkError
  | .linkEvent => .linkError

/-- The counter law, R141: `min(sample_count + 1, 0xFFFFFFFF)`. -/
def countSample (n : U32) : U32 := BitVec.ofNat 32 (min (n.toNat + 1) 0xFFFFFFFF)

/-- `n = consecutive_failures + 1`, "computed in 9 bits, never wraps" (R196). -/
def failuresPlusOne (s : State) : Nat := s.consecutive_failures.toNat + 1

/-- The LEN field of STATUS, R33: `zext_16(len)`.
DESIGN CHOICE (notes/assumptions/11.md): a `len` above 65535, which no legal `CAP` allows, loses its high bits. Unsafe
only in states with `len > CAP`, which no run reaches. -/
def lenField (s : State) : BitVec 16 := BitVec.ofNat 16 s.len

/-- STATUS, R33 and R145, from bit 47 down to bit 0:
`{0[13:0], zext_16(len), link_err, ovf, consecutive_failures, stop_req, healthy, err, state}`. -/
def status (s : State) : Rsp :=
  0#14 ++ lenField s ++ BitVec.ofBool s.link_err ++ BitVec.ofBool s.ovf ++ s.consecutive_failures
    ++ BitVec.ofBool s.stop_req ++ BitVec.ofBool s.healthy ++ s.err.code ++ s.state.code

end Sys2Proof.Machine
end

