-- ==== Sys2Proof/Machine/Ops.lean ====
section
/-! DEFINITION. The named operations every meaning is written with: the FrameBuffer as memory (`20_memory.md`), the
output record (R40), the legality table (R78), the failure path and the escalation (R196, R197: this block's taking of
an exception) and the way back (R157, R201), hardware reset (R220), and taking an item from the port. -/

namespace Sys2Proof.Machine

/-! ## The FrameBuffer as memory -/

/-- The form of a memory: addresses strictly rising, so equal memories are equal lists. An unlisted cell has no value,
so no entry can equal what an unlisted cell reads as. -/
abbrev Memory.wf (m : Memory) : Prop := m.Pairwise fun c d => c.1 < d.1

/-- The byte written to cell `a`, if one was written. -/
def Memory.read (m : Memory) (a : Nat) : Option Byte :=
  match m with
  | [] => none
  | (a', b) :: rest => if a = a' then some b else Memory.read rest a

/-- Cell `a` set to `b`; the addresses stay strictly rising. -/
def Memory.write (m : Memory) (a : Nat) (b : Byte) : Memory :=
  match m with
  | [] => [(a, b)]
  | (a', b') :: rest =>
    if a < a' then (a, b) :: (a', b') :: rest
    else if a = a' then (a, b) :: rest
    else (a', b') :: Memory.write rest a b

/-- `MemRead(a, 1)`, R15: the byte of cell `a`; of a cell no PUSH has written since reset, an unspecified byte (R60). -/
def memRead1 (s : State) (a : Nat) : Byte :=
  (Memory.read s.buf a).getD (Config.unspecifiedByte s.epoch a)

/-- `MemRead(a, 2)`, R15 and R54: two one-byte loads, byte `a` the more significant. -/
def memRead2 (s : State) (a : Nat) : U16 := be16 (memRead1 s a) (memRead1 s (a + 1))

/-- The state with cell `a` of `buf` set to `b`; the write pointer does not move. -/
def setCell (a : Nat) (b : Byte) (s : State) : State := { s with buf := Memory.write s.buf a b }

/-- `MemWrite(a, 1, b)`, R15: "never write beyond the bound" (R52). A store outside `buf` stops the model
(notes/assumptions/7.md). -/
def memWrite (a : Nat) (b : Byte) (s : State) : Except Fault State :=
  if a < s.cfg.cap then .ok (setCell a b s) else .error (.outsideBuffer a)

/-- `buf_clear`, R101: `len <- 0`; it does not write `buf`. -/
def bufClear (s : State) : State := { s with len := 0 }

/-- The window (`snapshot`), R104: `buf[0 .. len-1]`. -/
def window (s : State) : List Byte := (List.range s.len).map (memRead1 s)

/-- Reading the window at a SCAN: every load is at an address below `len` (R52). A write pointer beyond the buffer stops
the model (notes/assumptions/7.md). -/
def readWindow (s : State) : Except Fault (List Byte) :=
  if s.len ≤ s.cfg.cap then .ok (window s) else .error (.outsideBuffer (s.len - 1))

/-! ## The output record -/

/-- The step's output record, recorded in the output trace (R40, U9). -/
def emit (o : Out) (s : State) : State := { s with trace := o :: s.trace }

/-- The record of a rejected command, R78: `reject = 1`, every other field 0. -/
def Out.rejected : Out := { reject := true }

/-- The record with every field 0, R40. -/
def Out.quiet : Out := {}

/-- The record of a READ command, R83: `rsp`, every other field 0. -/
def Out.response (v : Rsp) : Out := { rsp := v }

/-! ## Legality -/

/-- What becomes of a command in a state, R78. -/
inductive Legality where
  | exec
  | reject
  | ignore
deriving DecidableEq, Repr

/-- R78, a command that executes where `ok` holds and is rejected elsewhere. -/
def execOnlyIf (ok : Bool) : Legality := if ok then .exec else .reject

/-- R78 and R181, a device event: it executes in Reading and is ignored elsewhere. -/
def eventLegality (st : Fsm) : Legality := if st = .reading then .exec else .ignore

/-- The legality table, R78 (and R77 for the reserved code). -/
def legality (i : Instr) (st : Fsm) : Legality :=
  match i with
  | .nop => .exec
  | .start => execOnlyIf (st = .idle)
  | .push _ => execOnlyIf (st = .reading)
  | .scan => execOnlyIf (st = .reading)
  | .next => execOnlyIf st.isTerminal
  | .stop => .exec
  | .evFifoOvf => eventLegality st
  | .evBufFull => eventLegality st
  | .evBreak => eventLegality st
  | .evParity => eventLegality st
  | .evFrame => eventLegality st
  | .readLatest => .exec
  | .readCount => .exec
  | .readHealthy => .exec
  | .readStatus => .exec
  | .reservedF => .reject

/-- A command under the legality table: its own effect, or a reject, or nothing (R78). -/
def guarded (i : Instr) (s : State) (effect : Host.Outcome State Fault Refusal) : Host.Outcome State Fault Refusal :=
  match legality i s.state with
  | .exec => effect
  | .reject => .next (emit Out.rejected s)
  | .ignore => .next (emit Out.quiet s)

/-! ## The failure path -/

/-- The escalation (channel reset), R197: the block's side of it. -/
def escalate (s : State) : State := { s with consecutive_failures := 0#8, healthy := false }

/-- `err` and `state` of a failure, R196. -/
def recordFailure (c : Failure) (s : State) : State := { s with err := c.err, state := c.terminal }

/-- `consecutive_failures <- n`, R196. -/
def setFailures (n : Nat) (s : State) : State := { s with consecutive_failures := BitVec.ofNat 8 n }

/-- R196: the failure escalates when `consecutive_failures + 1 > THRESHOLD`. -/
def escalates (s : State) : Bool := decide (s.cfg.threshold < failuresPlusOne s)

/-- `raise Failure(code)`, R16, R196 and R197: the one way a failure is taken, in one step. The record is all 0, but for
`chan_reset_req` when the failure escalates (R155). -/
def raiseFailure (c : Failure) (s : State) : State :=
  if escalates s then emit { chan_reset_req := true } (escalate (recordFailure c s))
  else emit Out.quiet (setFailures (failuresPlusOne s) (recordFailure c s))

/-- Leaving a terminal state, R157 and R201: a failed cycle is left as a successful one is. -/
def leaveTerminal (s : State) : State :=
  if s.stop_req then { s with state := .stopped, stop_req := false } else { s with state := .idle }

/-! ## Hardware reset and the port -/

/-- Hardware reset, R220: every piece of architectural state takes its value of R45, and the contents of `buf` become
unspecified again. The parameters, what the host will present next, and the output trace are not the block's state
(notes/assumptions/3.md). -/
def hardwareReset (s : State) : State :=
  { State.resetWith s.cfg with epoch := s.epoch + 1, port := s.port, trace := s.trace }

/-- The next item of the port and the state with it taken, if the host presents one. -/
def takePort (s : State) : Option (PortItem × State) :=
  match s.port with
  | [] => none
  | item :: rest => some (item, { s with port := rest })

end Sys2Proof.Machine
end

