-- ==== Sys2Proof/Machine/FieldExtract.lean ====
section
/-! DEFINITION. The FieldExtractor (`43_field_extract.md`). -/

namespace Sys2Proof.Machine

/-- `extract(f)`, R130: three big-endian pairs, no conversion and no clamping (R132). -/
def extract (f : RawFrame) : Reading where
  pm1 := be16 (f.byte 4) (f.byte 5)
  pm2_5 := be16 (f.byte 6) (f.byte 7)
  pm10 := be16 (f.byte 8) (f.byte 9)

end Sys2Proof.Machine
end

