-- ==== Sys2Proof/Machine/Aggregator.lean ====
section
/-! DEFINITION. The SampleAggregator (`44_aggregator.md`): the success path and the READ commands. -/

namespace Sys2Proof.Machine

/-- The success path, R140: everything is written in the same step (R57). -/
def recordSuccess (f : RawFrame) (s : State) : State :=
  { s with
    pm1 := (extract f).pm1
    pm2_5 := (extract f).pm2_5
    pm10 := (extract f).pm10
    sample_count := countSample s.sample_count
    consecutive_failures := 0#8
    healthy := true
    err := .none
    state := .success }

/-- `{pm1, pm2_5, pm10}`, R83 and R142. -/
def latestView (s : State) : Rsp := s.pm1 ++ s.pm2_5 ++ s.pm10

/-- `zext_48(sample_count)`, R83 and R143. -/
def countView (s : State) : Rsp := s.sample_count.setWidth 48

/-- `zext_48(healthy)`, R83 and R144. -/
def healthyView (s : State) : Rsp := (BitVec.ofBool s.healthy).setWidth 48

/-- READ_LATEST, R142. -/
def execReadLatest (s : State) : Host.Outcome State Fault Refusal :=
  guarded .readLatest s <| .next (emit (Out.response (latestView s)) s)

/-- READ_COUNT, R143. -/
def execReadCount (s : State) : Host.Outcome State Fault Refusal :=
  guarded .readCount s <| .next (emit (Out.response (countView s)) s)

/-- READ_HEALTHY, R144. -/
def execReadHealthy (s : State) : Host.Outcome State Fault Refusal :=
  guarded .readHealthy s <| .next (emit (Out.response (healthyView s)) s)

/-- READ_STATUS, R145. -/
def execReadStatus (s : State) : Host.Outcome State Fault Refusal :=
  guarded .readStatus s <| .next (emit (Out.response (status s)) s)

end Sys2Proof.Machine
end

