-- ==== Sys2Proof/Machine/Checksum.lean ====
section
/-! DEFINITION. The ChecksumValidator (`42_checksum.md`). -/

namespace Sys2Proof.Machine

/-- One addition of the accumulator, R121: the byte zero-extended, the carry out of 16 bits discarded. -/
def accumulate (acc : U16) (b : Byte) : U16 := acc + b.setWidth 16

/-- `sum(f)`, R120 and R121: bytes 0..21, header included. -/
def sum (f : RawFrame) : U16 := (f.bytes.take Config.SUM_LEN).foldl accumulate 0#16

/-- "Header `BM`", R71 and R126: both header bytes, not either one (R123). -/
def headerMatches (f : RawFrame) : Bool := f.byte 0 == Config.HDR0 && f.byte 1 == Config.HDR1

/-- "A correctly computed checksum", R126: the stored value is the sum of bytes 0..21 (R120). -/
def checksumMatches (f : RawFrame) : Bool := sum f == f.stored

/-- `validate(f)`, R122, and read from right to left R126: a frame with the header and a correctly computed checksum
validates, and no other. -/
def validate (f : RawFrame) : Bool := headerMatches f && checksumMatches f

/-- The frame with its checksum correctly computed and stored, as R126 speaks of: bytes 22 and 23 hold the sum of bytes
0..21, big-endian (R73). -/
def withChecksum (f : RawFrame) : RawFrame := (f.set 22 (hiByte (sum f))).set 23 (loByte (sum f))

end Sys2Proof.Machine
end

