-- ==== Sys2Proof/Machine/FrameSync.lean ====
section
/-! DEFINITION. The FrameSynchronizer (`41_frame_sync.md`): the magic-header detector over the window. -/

namespace Sys2Proof.Machine

/-- `cand(w, i)`, R110: a whole frame's length from `i`, and both header bytes. -/
def cand (w : List Byte) (i : Nat) : Bool :=
  decide (i + Config.FRAME_LEN ≤ w.length) && (w[i]? == some Config.HDR0) && (w[i + 1]? == some Config.HDR1)

/-- `candidates(w)`, R111: every candidate offset, in descending order. -/
def candidates (w : List Byte) : List Nat :=
  (List.range (w.length + 1 - Config.FRAME_LEN)).reverse.filter (cand w)

/-- `frame(w, i) = w[i .. i+23]`, R113; none where fewer than 24 bytes are left. -/
def frame (w : List Byte) (i : Nat) : Option RawFrame :=
  RawFrame.ofBytes ((w.drop i).take Config.FRAME_LEN)

/-- The candidate at `i` with its frame, if the frame validates (R116). -/
def tryCandidate (w : List Byte) (i : Nat) : Option (Nat × RawFrame) :=
  match frame w i with
  | some f => if validate f then some (i, f) else none
  | none => none

/-- The first candidate in scan order that validates, with its frame: cycle step (4), R116. -/
def selected (w : List Byte) : Option (Nat × RawFrame) := (candidates w).findSome? (tryCandidate w)

/-- `first_valid(w)`, R116. -/
def firstValid (w : List Byte) : Option Nat := (selected w).map Prod.fst

/-- `cand_seen`, R34: at least one candidate was located. -/
def candSeen (w : List Byte) : Bool := !(candidates w).isEmpty

/-! ## Two hardware designs for the same function -/

/-- The loop of R112, from offset `i` down to 0. -/
def walkFrom (w : List Byte) (i : Nat) : List Nat :=
  let here := if w[i]? == some Config.HDR0 && w[i + 1]? == some Config.HDR1 then [i] else []
  match i with
  | 0 => here
  | j + 1 => here ++ walkFrom w j

/-- The scan as hardware would walk it, R112. -/
def walk (w : List Byte) : List Nat :=
  if Config.FRAME_LEN ≤ w.length then walkFrom w (w.length - Config.FRAME_LEN) else []

/-- What a streaming detector keeps between bytes (R118): the last 23 bytes, oldest first, how many bytes came, the
offset of the last frame that validated, and `cand_seen`. -/
structure StreamState where
  recent : List Byte
  count : Nat
  last : Option Nat
  seen : Bool
deriving DecidableEq, Repr

/-- The streaming detector after a clear: nothing remembered (R118). -/
def streamStart : StreamState := { recent := [], count := 0, last := none, seen := false }

/-- One arriving byte, R118: check the 24-byte frame that ends at it. -/
def streamStep (d : StreamState) (b : Byte) : StreamState :=
  let l := d.recent ++ [b]
  let here := cand l 0
  { recent := if l.length < Config.FRAME_LEN then l else l.drop 1
    count := d.count + 1
    last := if here && (tryCandidate l 0).isSome then some (d.count + 1 - Config.FRAME_LEN) else d.last
    seen := d.seen || here }

/-- The streaming detector over a window, R118. -/
def stream (w : List Byte) : StreamState := w.foldl streamStep streamStart

end Sys2Proof.Machine
end

