-- ==== Sys2Proof/Machine/Controller.lean ====
section
/-! DEFINITION. The AcquisitionController (`45_controller.md`): NOP, START, SCAN, NEXT, STOP, and the reserved code
(`30_encoding.md` R77); the classification of a cycle (`60_exceptions.md` R194). -/

namespace Sys2Proof.Machine

/-- The outcome of a cycle, R194: `Ok(i)`, here with the frame at `i`, or a failure. -/
inductive CycleOutcome where
  | ok (i : Nat) (f : RawFrame)
  | failed (c : Failure)
deriving DecidableEq, Repr

/-- Lines 4 to 6 of R194, for a window that is not empty. -/
def classify (w : List Byte) : CycleOutcome :=
  match selected w with
  | some (i, f) => .ok i f
  | none => if candSeen w then .failed .checksumMismatch else .failed .noValidFrameFound

/-- `outcome(S)`, R194: the ordered tests. When `ovf` or `link_err` decides, or the window is empty, it is not scanned. -/
def outcome (s : State) : Except Fault CycleOutcome :=
  if s.ovf then .ok (.failed .bufferOverflow)
  else if s.link_err then .ok (.failed .linkEvent)
  else if s.len = 0 then .ok (.failed .noDataAvailable)
  else
    match readWindow s with
    | .ok w => .ok (classify w)
    | .error r => .error r

/-- NOP, R152. -/
def execNop (s : State) : Host.Outcome State Fault Refusal :=
  guarded .nop s <| .next (emit Out.quiet s)

/-- What START writes, R153: the buffer and the flags of the cycle are cleared. -/
def enterReading (s : State) : State :=
  { bufClear s with ovf := false, link_err := false, state := .reading }

/-- START, R153. -/
def execStart (s : State) : Host.Outcome State Fault Refusal :=
  guarded .start s <| .next (emit { flush_req := true } (enterReading s))

/-- SCAN, R155: exactly one of the success path (R140) and the failure path (R196), once. -/
def execScan (s : State) : Host.Outcome State Fault Refusal :=
  guarded .scan s <|
    match outcome s with
    | .ok (.ok _ f) => .next (emit Out.quiet (recordSuccess f s))
    | .ok (.failed c) => .next (raiseFailure c s)
    | .error r => .fault r

/-- NEXT, R157. -/
def execNext (s : State) : Host.Outcome State Fault Refusal :=
  guarded .next s <| .next (emit Out.quiet (leaveTerminal s))

/-- What STOP writes, R158. -/
def requestStop (s : State) : State :=
  match s.state with
  | .idle => { s with state := .stopped }
  | .stopped => s
  | .reading => { s with stop_req := true }
  | .success => { s with stop_req := true }
  | .noFrame => { s with stop_req := true }
  | .checksumFail => { s with stop_req := true }
  | .linkError => { s with stop_req := true }

/-- STOP, R158. -/
def execStop (s : State) : Host.Outcome State Fault Refusal :=
  guarded .stop s <| .next (emit Out.quiet (requestStop s))

/-- The reserved code 0xF, R77: rejected in every state. -/
def execReservedF (s : State) : Host.Outcome State Fault Refusal :=
  guarded .reservedF s <| .next (emit Out.rejected s)

end Sys2Proof.Machine
end

