-- ==== Sys2Proof/Machine/DeviceEvents.lean ====
section
/-! DEFINITION. The device-event commands (`46_device_events.md`). -/

namespace Sys2Proof.Machine

/-- `link_err <- 1`, R181: the common part of all five events. -/
def markLinkError (s : State) : State := { s with link_err := true }

/-- The effect of the two overflow events, R182. -/
def overflowEvent (s : State) : Host.Outcome State Fault Refusal :=
  .next (emit { queue_reset_req := true } (markLinkError (bufClear s)))

/-- The effect of the three other events, R183: the buffer is kept. -/
def lineEvent (s : State) : Host.Outcome State Fault Refusal :=
  .next (emit Out.quiet (markLinkError s))

/-- EV_FIFO_OVF, R182. -/
def execEvFifoOvf (s : State) : Host.Outcome State Fault Refusal := guarded .evFifoOvf s (overflowEvent s)

/-- EV_BUF_FULL, R182. -/
def execEvBufFull (s : State) : Host.Outcome State Fault Refusal := guarded .evBufFull s (overflowEvent s)

/-- EV_BREAK, R183. -/
def execEvBreak (s : State) : Host.Outcome State Fault Refusal := guarded .evBreak s (lineEvent s)

/-- EV_PARITY, R183. -/
def execEvParity (s : State) : Host.Outcome State Fault Refusal := guarded .evParity s (lineEvent s)

/-- EV_FRAME, R183. -/
def execEvFrame (s : State) : Host.Outcome State Fault Refusal := guarded .evFrame s (lineEvent s)

end Sys2Proof.Machine
end

