-- ==== Sys2Proof/Machine/FrameBuffer.lean ====
section
/-! DEFINITION. The FrameBuffer's command (`40_frame_buffer.md`): PUSH. -/

namespace Sys2Proof.Machine

/-- The buffer is exactly full, R103. -/
def bufFull (s : State) : Bool := s.len == s.cfg.cap

/-- Where PUSH stores its byte: at the write pointer (R102), or at 0 when the buffer is full (R103). -/
def pushAddress (s : State) : Nat := if bufFull s then 0 else s.len

/-- What PUSH does after its store: the write pointer is one past the stored byte; an overflow sets `ovf` (R103). -/
def afterPush (full : Bool) (a : Nat) (s : State) : State := { s with len := a + 1, ovf := s.ovf || full }

/-- PUSH `b`, R102 and R103. An overflow clears the buffer, keeps the byte at index 0 and pulses `buf_overflow`. -/
def execPush (b : Byte) (s : State) : Host.Outcome State Fault Refusal :=
  guarded (.push b) s <|
    match memWrite (pushAddress s) b s with
    | .ok t => .next (emit { buf_overflow := bufFull s } (afterPush (bufFull s) (pushAddress s) t))
    | .error r => .fault r

end Sys2Proof.Machine
end

