-- ==== Sys2Proof/Machine/Dispatch.lean ====
section
/-! DEFINITION. One arm per command (`30_encoding.md` R75, R77). -/

namespace Sys2Proof.Machine

/-- The meaning of a command in a state. -/
def exec (i : Instr) (s : State) : Host.Outcome State Fault Refusal :=
  match i with
  | .nop => Sys2Proof.Machine.execNop s
  | .start => Sys2Proof.Machine.execStart s
  | .push b => Sys2Proof.Machine.execPush b s
  | .scan => Sys2Proof.Machine.execScan s
  | .next => Sys2Proof.Machine.execNext s
  | .stop => Sys2Proof.Machine.execStop s
  | .evFifoOvf => Sys2Proof.Machine.execEvFifoOvf s
  | .evBufFull => Sys2Proof.Machine.execEvBufFull s
  | .evBreak => Sys2Proof.Machine.execEvBreak s
  | .evParity => Sys2Proof.Machine.execEvParity s
  | .evFrame => Sys2Proof.Machine.execEvFrame s
  | .readLatest => Sys2Proof.Machine.execReadLatest s
  | .readCount => Sys2Proof.Machine.execReadCount s
  | .readHealthy => Sys2Proof.Machine.execReadHealthy s
  | .readStatus => Sys2Proof.Machine.execReadStatus s
  | .reservedF => Sys2Proof.Machine.execReservedF s

end Sys2Proof.Machine
end

