-- ==== Sys2Proof/Machine/Step.lean ====
section
/-! DEFINITION. One step of the block (`00_scope.md` R7): it takes what the host presents and does it. -/

namespace Sys2Proof.Machine

/-- One step, R7: a command word is decoded and executed; hardware reset wins over a command presented with it (R220,
U8) and answers no record; with nothing presented the block waits (R210, R232).
DEDUCED (notes/assumptions/1.md, 3.md). Safe. -/
def step (s : State) : Host.Outcome State Fault Refusal :=
  match takePort s with
  | none => .next s
  | some (.command w, t) => exec (decode w) t
  | some (.hardReset _, t) => .next (hardwareReset t)

/-- The state with the command word `w` presented next at the port (notes/assumptions/1.md): the block fetches nothing,
and this is the host sending one command. -/
def State.withFetchWord (s : State) (_nbits w : Nat) : State :=
  { s with port := .command (BitVec.ofNat 12 w) :: s.port }

end Sys2Proof.Machine
end

