-- ==== Sys2Proof/Machine/Pseudo.lean ====
section
/-! DEFINITION. Command sequences: running one, the pseudo-commands (`30_encoding.md` R85), and the textual trace syntax
(R84). -/

namespace Sys2Proof.Machine

/-- A command sequence, one `exec` after the other (R60), stopping at the first fault or refusal. -/
def runCommands (is : List Instr) (s : State) : Host.Outcome State Fault Refusal :=
  match is with
  | [] => .next s
  | i :: rest =>
    match exec i s with
    | .next t => runCommands rest t
    | .fault r => .fault r
    | .refused r => .refused r

/-! ## Pseudo-commands -/

/-- `APPEND b0 … bn-1`, R85; `DATAREADY` is the same. -/
def appendCmds (bs : List Byte) : List Instr := bs.map Instr.push

/-- The first 22 bytes of `FRAME p1, p25, p10`, R85: offsets 2, 3 and 10..21 are 0 (D24). -/
def frameBody (r : Reading) : List Byte :=
  [Config.HDR0, Config.HDR1, 0#8, 0#8, hiByte r.pm1, loByte r.pm1, hiByte r.pm2_5, loByte r.pm2_5,
    hiByte r.pm10, loByte r.pm10] ++ List.replicate 12 0#8

/-- `ck` of R85: the sum of the body modulo 65536. -/
def frameCk (r : Reading) : U16 := (frameBody r).foldl accumulate 0#16

/-- The 24 bytes of `FRAME p1, p25, p10`, R85. -/
def frameBytes (r : Reading) : List Byte := frameBody r ++ [hiByte (frameCk r), loByte (frameCk r)]

/-- `FRAME p1, p25, p10`, R85. -/
def frameCmds (r : Reading) : List Instr := appendCmds (frameBytes r)

/-- `CYCLE <body>`, R85. -/
def cycleCmds (body : List Instr) : List Instr := [.start] ++ body ++ [.scan, .next]

/-- The document's device events, R82, `DataReady` with the bytes the host then reads, and the stop sentinel. -/
inductive DeviceEvent where
  | dataReady (bs : List Byte)
  | fifoOverflow
  | bufferFull
  | break_
  | parityError
  | frameError
  | stopSentinel
deriving DecidableEq, Repr

/-- An event's carriage on the command port, R82. -/
def eventCmds : DeviceEvent → List Instr
  | .dataReady bs => appendCmds bs
  | .fifoOverflow => [.evFifoOvf]
  | .bufferFull => [.evBufFull]
  | .break_ => [.evBreak]
  | .parityError => [.evParity]
  | .frameError => [.evFrame]
  | .stopSentinel => [.stop]

/-! ## The outcome of a body -/

/-- The outcome of a cycle whose commands between START and SCAN are `body`, computed on a block with the parameters `p`
fresh from power-on (R105 (c), R194: nothing from before the START enters it). None if a command stops. -/
def bodyOutcome (p : Params) (body : List Instr) : Option CycleOutcome :=
  match runCommands ([.start] ++ body) (State.resetWith p) with
  | .next u =>
    match outcome u with
    | .ok o => some o
    | .error _ => none
  | .fault _ => none
  | .refused _ => none

/-! ## The textual syntax of R84 -/

/-- The command a well-formed line stands for, R84. -/
def lineInstr (l : Line) : Option Instr :=
  if l.wf then
    match l.mnemonic with
    | .NOP => some .nop
    | .START => some .start
    | .PUSH => l.operand.map fun b => .push (BitVec.ofNat 8 b)
    | .SCAN => some .scan
    | .NEXT => some .next
    | .STOP => some .stop
    | .EV_FIFO_OVF => some .evFifoOvf
    | .EV_BUF_FULL => some .evBufFull
    | .EV_BREAK => some .evBreak
    | .EV_PARITY => some .evParity
    | .EV_FRAME => some .evFrame
    | .READ_LATEST => some .readLatest
    | .READ_COUNT => some .readCount
    | .READ_HEALTHY => some .readHealthy
    | .READ_STATUS => some .readStatus
  else none

/-- The mnemonics as they are written, R75 and R84: upper case. -/
def mnemonicTexts : List (List Char × Mnemonic) :=
  [("NOP".toList, .NOP), ("START".toList, .START), ("PUSH".toList, .PUSH), ("SCAN".toList, .SCAN),
    ("NEXT".toList, .NEXT), ("STOP".toList, .STOP), ("EV_FIFO_OVF".toList, .EV_FIFO_OVF),
    ("EV_BUF_FULL".toList, .EV_BUF_FULL), ("EV_BREAK".toList, .EV_BREAK), ("EV_PARITY".toList, .EV_PARITY),
    ("EV_FRAME".toList, .EV_FRAME), ("READ_LATEST".toList, .READ_LATEST), ("READ_COUNT".toList, .READ_COUNT),
    ("READ_HEALTHY".toList, .READ_HEALTHY), ("READ_STATUS".toList, .READ_STATUS)]

/-- The value of one digit in a base up to 16.
DESIGN CHOICE (notes/assumptions/12.md): hexadecimal letters of either case. -/
def digitValue (c : Char) : Option Nat :=
  if '0' ≤ c && c ≤ '9' then some (c.toNat - '0'.toNat)
  else if 'A' ≤ c && c ≤ 'F' then some (c.toNat - 'A'.toNat + 10)
  else if 'a' ≤ c && c ≤ 'f' then some (c.toNat - 'a'.toNat + 10)
  else none

/-- The value of digits in a base, most significant first, continued from `acc`. -/
def digitsFrom (base acc : Nat) : List Char → Option Nat
  | [] => some acc
  | c :: rest =>
    match digitValue c with
    | some d => if d < base then digitsFrom base (acc * base + d) rest else none
    | none => none

/-- An operand, R84 and R11: `0xHH`, or decimal. -/
def operandValue : List Char → Option Nat
  | [] => none
  | '0' :: 'x' :: c :: rest => digitsFrom 16 0 (c :: rest)
  | cs => digitsFrom 10 0 cs

/-- The text of a line up to its comment, R84: `;` starts a comment to the end of the line. -/
def uncomment : List Char → List Char
  | [] => []
  | ';' :: _ => []
  | c :: rest => c :: uncomment rest

/-- A list cut at every element that `isSep` names; the pieces between them, empty ones too. -/
def pieces (isSep : Char → Bool) : List Char → List (List Char)
  | [] => [[]]
  | c :: rest =>
    match pieces isSep rest with
    | [] => [[c]]
    | p :: ps => if isSep c then [] :: p :: ps else (c :: p) :: ps

/-- The words of a line: the non-empty pieces between spaces, tabs and carriage returns. -/
def wordsOf (cs : List Char) : List (List Char) :=
  (pieces (fun c => c == ' ' || c == '\t' || c == '\r') (uncomment cs)).filter (fun p => !p.isEmpty)

/-- Why a text is not a command sequence. -/
inductive TextReject where
  /-- The first word of a line is no mnemonic of R75. -/
  | unknownMnemonic (word : List Char)
  /-- The second word of a line is not a number. -/
  | badOperand (word : List Char)
  /-- A line has more than two words. -/
  | tooManyWords
  /-- A line whose operand is missing, is not a byte, or stands with a command that takes none (`Line.wf`). -/
  | illFormed (l : Line)
deriving DecidableEq, Repr

/-- One line of text, R84: nothing when it is blank or only a comment. -/
def parseLine (cs : List Char) : Except TextReject (Option Line) :=
  match wordsOf cs with
  | [] => .ok none
  | [m] =>
    match mnemonicTexts.lookup m with
    | some k => .ok (some ⟨k, none⟩)
    | none => .error (.unknownMnemonic m)
  | [m, o] =>
    match mnemonicTexts.lookup m, operandValue o with
    | none, _ => .error (.unknownMnemonic m)
    | some _, none => .error (.badOperand o)
    | some k, some v => .ok (some ⟨k, some v⟩)
  | _ => .error .tooManyWords

/-- The commands of a list of lines, in order. -/
def assembleLines : List (List Char) → Except TextReject (List Instr)
  | [] => .ok []
  | cs :: rest =>
    match parseLine cs, assembleLines rest with
    | .error r, _ => .error r
    | .ok _, .error r => .error r
    | .ok none, .ok is => .ok is
    | .ok (some l), .ok is =>
      match lineInstr l with
      | some i => .ok (i :: is)
      | none => .error (.illFormed l)

/-- A text in the syntax of R84 as a command sequence: one command a line. -/
def assemble (text : List Char) : Except TextReject (List Instr) :=
  assembleLines (pieces (fun c => c == '\n') text)

end Sys2Proof.Machine
end

