-- ==== Sys2Proof/Safety.lean ====
section
/-! DEFINITION. What counts as a safe run, in the terms the statements use: the invariant (`10_state.md` R35), the runs
the host can drive, and when two states look alike to every rule. -/

namespace Sys2Proof.Machine

/-- The outcome class a terminal state stands for agrees with the cause in `err` and with the flags SCAN saw (R81, R190,
R194); SCAN leaves `ovf`, `link_err` and `len` as they are, so the cause can still be read off them. -/
def outcomeAgrees (s : State) : Prop :=
  match s.state with
  | .success => s.err = .none ∧ s.ovf = false ∧ s.link_err = false ∧ 24 ≤ s.len
  | .noFrame =>
    s.ovf = false ∧ s.link_err = false ∧
      ((s.err = .noDataAvailable ∧ s.len = 0) ∨ (s.err = .noValidFrameFound ∧ 0 < s.len))
  | .checksumFail => s.err = .checksumMismatch ∧ s.ovf = false ∧ s.link_err = false ∧ 24 ≤ s.len
  | .linkError => (s.err = .bufferOverflow ∧ s.ovf = true) ∨ (s.err = .linkEvent ∧ s.ovf = false ∧ s.link_err = true)
  | .idle => True
  | .reading => True
  | .stopped => True

/-- The invariant of the block: R35 (a), (b), (e), R10, the form of `buf` (R52), every cell of the window written (R35 (d),
R222), the terminal states (R81), and the reading that is still the reset value while nothing was counted (R224). -/
structure BlockInvariant (s : State) : Prop where
  cfg_wf : s.cfg.wf
  len_le_cap : s.len ≤ s.cfg.cap
  failures_le : s.consecutive_failures.toNat ≤ s.cfg.threshold
  buf_wf : Memory.wf s.buf
  buf_inside : ∀ c ∈ s.buf, c.1 < s.cfg.cap
  window_written : ∀ a, a < s.len → (Memory.read s.buf a).isSome
  no_stop_pending : s.state = .idle ∨ s.state = .stopped → s.stop_req = false
  outcome_agrees : outcomeAgrees s
  no_reading_yet : s.sample_count = 0#32 → s.pm1 = 0#16 ∧ s.pm2_5 = 0#16 ∧ s.pm10 = 0#16

/-- The states a run can reach: any block with legal parameters, fresh from power-on, and any host: it may present more
items at the port at any time (R8), and the block steps. -/
inductive Reachable : State → Prop where
  | powerOn (p : Params) (h : p.wf) : Reachable (State.resetWith p)
  | present (s : State) (items : List PortItem) (h : Reachable s) : Reachable { s with port := s.port ++ items }
  | step (s t : State) (h : Reachable s) (hs : step s = .next t) : Reachable t

/-- A state from which the next step does not stop (R193: nothing is fatal). -/
def Safe (s : State) : Prop := ∃ t, step s = .next t

/-- The registers of two states, all but the model's own fields and `buf`, are equal. -/
structure SameRegisters (s t : State) : Prop where
  cfg : s.cfg = t.cfg
  pm1 : s.pm1 = t.pm1
  pm2_5 : s.pm2_5 = t.pm2_5
  pm10 : s.pm10 = t.pm10
  sample_count : s.sample_count = t.sample_count
  consecutive_failures : s.consecutive_failures = t.consecutive_failures
  state : s.state = t.state
  healthy : s.healthy = t.healthy
  ovf : s.ovf = t.ovf
  link_err : s.link_err = t.link_err
  stop_req : s.stop_req = t.stop_req
  err : s.err = t.err
  len : s.len = t.len

/-- Two states that differ at most in cells of `buf` outside the window, which "have no meaning" (R29), and in the
unspecified contents those cells have. -/
structure SameVisible (s t : State) : Prop where
  registers : SameRegisters s t
  window : window s = window t
  port : s.port = t.port
  trace : s.trace = t.trace

/-- How many records of a trace pulse `chan_reset_req`. -/
def chanResets (os : List Out) : Nat := os.countP fun o => o.chan_reset_req

/-- How many records of a trace pulse `buf_overflow`. -/
def overflowPulses (os : List Out) : Nat := os.countP fun o => o.buf_overflow

end Sys2Proof.Machine
end

