-- ==== Sys2Proof/Certificates/Slice0/Obligations.lean ====
section
/-! DEFINITION. The statements for the provers, from the numbered rules of the spec. In every statement about a step's
result the record update says the frame too: what it does not name is unchanged. The output record of a step (R40) is the
head of the model's own field `trace` (notes/assumptions/2.md). -/

open Sys2Proof
open Sys2Proof.Machine

/-! ## Encoding -/

/-- R74 to R77: each row of the opcode table (mask 0xF00) decodes to its command, and nothing else does; PUSH's operand is
`word[7:0]`. -/
def Obligations.OpcodeTableRowsDecode : Prop :=
  ∀ w : CmdWord,
    (w &&& 0xF00#12 = 0x000#12 ↔ decode w = .nop) ∧
    (w &&& 0xF00#12 = 0x100#12 ↔ decode w = .start) ∧
    (w &&& 0xF00#12 = 0x200#12 ↔ decode w = .push (w.extractLsb' 0 8)) ∧
    (w &&& 0xF00#12 = 0x300#12 ↔ decode w = .scan) ∧
    (w &&& 0xF00#12 = 0x400#12 ↔ decode w = .next) ∧
    (w &&& 0xF00#12 = 0x500#12 ↔ decode w = .stop) ∧
    (w &&& 0xF00#12 = 0x600#12 ↔ decode w = .evFifoOvf) ∧
    (w &&& 0xF00#12 = 0x700#12 ↔ decode w = .evBufFull) ∧
    (w &&& 0xF00#12 = 0x800#12 ↔ decode w = .evBreak) ∧
    (w &&& 0xF00#12 = 0x900#12 ↔ decode w = .evParity) ∧
    (w &&& 0xF00#12 = 0xA00#12 ↔ decode w = .evFrame) ∧
    (w &&& 0xF00#12 = 0xB00#12 ↔ decode w = .readLatest) ∧
    (w &&& 0xF00#12 = 0xC00#12 ↔ decode w = .readCount) ∧
    (w &&& 0xF00#12 = 0xD00#12 ↔ decode w = .readHealthy) ∧
    (w &&& 0xF00#12 = 0xE00#12 ↔ decode w = .readStatus) ∧
    (w &&& 0xF00#12 = 0xF00#12 ↔ decode w = .reservedF)

/-- 95_test_vectors.md section 2.9: command words decoded, one of each family and the corners of `data`. -/
def Obligations.SampleWordsDecode : Prop :=
  decode 0x0FF#12 = .nop ∧ decode 0x15A#12 = .start ∧ decode 0x242#12 = .push 0x42#8 ∧ decode 0x2FF#12 = .push 0xFF#8 ∧
  decode 0x3FF#12 = .scan ∧ decode 0x600#12 = .evFifoOvf ∧ decode 0xA00#12 = .evFrame ∧ decode 0xB00#12 = .readLatest ∧
  decode 0xE7F#12 = .readStatus ∧ decode 0xFAB#12 = .reservedF

/-- Decode and encode agree, both ways: no bit of an encoding is dropped, and a word differs from the encoding of what it
decodes to at most in the ignored `data` field (R76). -/
def Obligations.DecodeAndEncodeAgree : Prop :=
  (∀ i : Instr, decode (encode i) = i) ∧
  (∀ w : CmdWord, ∃ d : Byte, w = opcode (decode w) ++ d ∧
    (encode (decode w) = w ∨ ((∀ b, decode w ≠ .push b) ∧ encode (decode w) = w &&& 0xF00#12)))

/-- R84: the text `PUSH 0x42` is the word 0x242, `START` is 0x100, `SCAN` is 0x300; an operand that is missing, is not a
byte, or stands with another command is no command. -/
def Obligations.TextLinesAssemble : Prop :=
  assemble "PUSH 0x42".toList = .ok [.push 0x42#8] ∧ encode (.push 0x42#8) = 0x242#12 ∧
  assemble "START".toList = .ok [.start] ∧ encode .start = 0x100#12 ∧
  assemble "SCAN".toList = .ok [.scan] ∧ encode .scan = 0x300#12 ∧
  (∀ l : Line, (lineInstr l).isSome = l.wf) ∧
  (∀ b : Nat, b < 256 → lineInstr ⟨.PUSH, some b⟩ = some (.push (BitVec.ofNat 8 b)))

/-! ## One command at a time -/

/-- R152. -/
def Obligations.NopChangesNothing : Prop :=
  (∀ d : Byte, decode (0x0#4 ++ d) = .nop) ∧
  ∀ s : State, exec .nop s = .next { s with trace := {} :: s.trace }

/-- R153. -/
def Obligations.StartBeginsACycle : Prop :=
  (∀ d : Byte, decode (0x1#4 ++ d) = .start) ∧
  (∀ s : State, s.state = .idle →
    exec .start s = .next { s with
      len := 0, ovf := false, link_err := false, state := .reading, trace := { flush_req := true } :: s.trace }) ∧
  (∀ s : State, s.state ≠ .idle → exec .start s = .next { s with trace := { reject := true } :: s.trace })

/-- R102: PUSH with room in the buffer. -/
def Obligations.PushAppendsItsByte : Prop :=
  (∀ b : Byte, decode (0x2#4 ++ b) = .push b) ∧
  (∀ (s : State) (b : Byte), s.state = .reading → s.len < s.cfg.cap →
    exec (.push b) s = .next { s with
      buf := Memory.write s.buf s.len b, len := s.len + 1, trace := {} :: s.trace }) ∧
  (∀ (s : State) (b : Byte), s.state ≠ .reading →
    exec (.push b) s = .next { s with trace := { reject := true } :: s.trace })

/-- R103: PUSH on a full buffer; the SCAN that ends the cycle then fails it whatever the buffer holds. -/
def Obligations.PushOnFullBufferRestartsIt : Prop :=
  (∀ b : Byte, decode (0x2#4 ++ b) = .push b) ∧
  (∀ (s : State) (b : Byte), s.state = .reading → s.cfg.wf → s.len = s.cfg.cap →
    exec (.push b) s = .next { s with
      buf := Memory.write s.buf 0 b, len := 1, ovf := true, trace := { buf_overflow := true } :: s.trace }) ∧
  (∀ (s : State) (b : Byte), s.state ≠ .reading →
    exec (.push b) s = .next { s with trace := { reject := true } :: s.trace }) ∧
  (∀ s : State, s.state = .reading → s.ovf = true →
    ∃ t, exec .scan s = .next t ∧ t.state = .linkError ∧ t.err = .bufferOverflow)

/-- R140: SCAN when a frame validates and no flag is set. -/
def Obligations.ScanSuccessPublishesTheFrame : Prop :=
  ∀ (s : State) (i : Nat) (f : RawFrame),
    s.state = .reading → s.ovf = false → s.link_err = false → s.len ≤ s.cfg.cap →
    firstValid (window s) = some i → frame (window s) i = some f →
    exec .scan s = .next { s with
      pm1 := (extract f).pm1
      pm2_5 := (extract f).pm2_5
      pm10 := (extract f).pm10
      sample_count := if s.sample_count = 0xFFFFFFFF#32 then 0xFFFFFFFF#32 else s.sample_count + 1#32
      consecutive_failures := 0#8
      healthy := true
      err := .none
      state := .success
      trace := {} :: s.trace }

/-- R190, R196, R197: the failure path, with the code and the terminal state of each failure, and the escalation. -/
def Obligations.ScanFailurePathAndEscalation : Prop :=
  ∀ (s : State) (c : Failure) (e : Err) (st : Fsm),
    s.cfg.wf → s.state = .reading → outcome s = .ok (.failed c) →
    (c, e, st) ∈ [(Failure.noDataAvailable, Err.noDataAvailable, Fsm.noFrame),
      (Failure.noValidFrameFound, Err.noValidFrameFound, Fsm.noFrame),
      (Failure.checksumMismatch, Err.checksumMismatch, Fsm.checksumFail),
      (Failure.bufferOverflow, Err.bufferOverflow, Fsm.linkError),
      (Failure.linkEvent, Err.linkEvent, Fsm.linkError)] →
    (s.consecutive_failures.toNat + 1 ≤ s.cfg.threshold →
      exec .scan s = .next { s with
        err := e, state := st, consecutive_failures := s.consecutive_failures + 1#8, trace := {} :: s.trace }) ∧
    (s.cfg.threshold < s.consecutive_failures.toNat + 1 →
      exec .scan s = .next { s with
        err := e, state := st, consecutive_failures := 0#8, healthy := false,
        trace := { chan_reset_req := true } :: s.trace })

/-- R155: SCAN outside Reading, and its encoding; in Reading exactly one of the two paths runs. -/
def Obligations.ScanRunsOnePathOrIsRejected : Prop :=
  (∀ d : Byte, decode (0x3#4 ++ d) = .scan) ∧
  (∀ s : State, s.state ≠ .reading → exec .scan s = .next { s with trace := { reject := true } :: s.trace }) ∧
  (∀ s : State, s.state = .reading → s.len ≤ s.cfg.cap →
    ∃ t, exec .scan s = .next t ∧
      ((∃ i f, outcome s = .ok (.ok i f) ∧ frame (window s) i = some f ∧ validate f = true ∧
          t.state = .success ∧ t.err = .none) ∨
        (∃ c, outcome s = .ok (.failed c) ∧ t.state = c.terminal ∧ t.err = c.err)) ∧
      t.buf = s.buf ∧ t.len = s.len ∧ t.ovf = s.ovf ∧ t.link_err = s.link_err ∧ t.stop_req = s.stop_req)

/-- R157. -/
def Obligations.NextLeavesATerminalState : Prop :=
  (∀ d : Byte, decode (0x4#4 ++ d) = .next) ∧
  (∀ s : State, s.state ∈ [Fsm.success, Fsm.noFrame, Fsm.checksumFail, Fsm.linkError] →
    (s.stop_req = false → exec .next s = .next { s with state := .idle, trace := {} :: s.trace }) ∧
    (s.stop_req = true →
      exec .next s = .next { s with state := .stopped, stop_req := false, trace := {} :: s.trace })) ∧
  (∀ s : State, s.state ∈ [Fsm.idle, Fsm.reading, Fsm.stopped] →
    exec .next s = .next { s with trace := { reject := true } :: s.trace })

/-- R158; after a STOP in Reading the bytes, the events and the SCAN of the cycle go on as usual: whatever commands come
before the SCAN, the registers end as they would without the STOP, and the NEXT that follows enters Stopped. -/
def Obligations.StopTakesEffectAtTheBoundary : Prop :=
  (∀ d : Byte, decode (0x5#4 ++ d) = .stop) ∧
  (∀ s : State, s.state = .idle → exec .stop s = .next { s with state := .stopped, trace := {} :: s.trace }) ∧
  (∀ s : State, s.state = .stopped → exec .stop s = .next { s with trace := {} :: s.trace }) ∧
  (∀ s : State, s.state ≠ .idle → s.state ≠ .stopped →
    exec .stop s = .next { s with stop_req := true, trace := {} :: s.trace }) ∧
  (∀ (body : List Instr) (s : State), s.state = .reading → 0 < s.cfg.cap → s.len ≤ s.cfg.cap →
    (∀ i ∈ body, i ≠ .scan) →
    ∃ u t, runCommands (body ++ [.scan]) s = .next u ∧ runCommands ([.stop] ++ body ++ [.scan, .next]) s = .next t ∧
      t.state = .stopped ∧ t.stop_req = false ∧ u.state.isTerminal = true ∧
      t.pm1 = u.pm1 ∧ t.pm2_5 = u.pm2_5 ∧ t.pm10 = u.pm10 ∧ t.sample_count = u.sample_count ∧
      t.consecutive_failures = u.consecutive_failures ∧ t.healthy = u.healthy ∧ t.err = u.err ∧
      t.ovf = u.ovf ∧ t.link_err = u.link_err ∧ t.len = u.len ∧ window t = window u)

/-- R182: the two overflow events. -/
def Obligations.OverflowEventsClearTheBuffer : Prop :=
  (∀ d : Byte, decode (0x6#4 ++ d) = .evFifoOvf ∧ decode (0x7#4 ++ d) = .evBufFull) ∧
  ∀ (i : Instr) (s : State), i ∈ [Instr.evFifoOvf, Instr.evBufFull] → s.state = .reading →
    exec i s = .next { s with len := 0, link_err := true, trace := { queue_reset_req := true } :: s.trace }

/-- R183: the three other events, and how the cycle will end. -/
def Obligations.LineEventsKeepTheBuffer : Prop :=
  (∀ d : Byte, decode (0x8#4 ++ d) = .evBreak ∧ decode (0x9#4 ++ d) = .evParity ∧ decode (0xA#4 ++ d) = .evFrame) ∧
  (∀ (i : Instr) (s : State), i ∈ [Instr.evBreak, Instr.evParity, Instr.evFrame] → s.state = .reading →
    exec i s = .next { s with link_err := true, trace := {} :: s.trace }) ∧
  (∀ s : State, s.state = .reading → s.link_err = true →
    ∃ t, exec .scan s = .next t ∧ t.state = .linkError ∧ t.err = if s.ovf then .bufferOverflow else .linkEvent)

/-- R181: outside Reading the five events are ignored, not rejected. -/
def Obligations.EventsOutsideReadingAreIgnored : Prop :=
  ∀ (i : Instr) (s : State),
    i ∈ [Instr.evFifoOvf, Instr.evBufFull, Instr.evBreak, Instr.evParity, Instr.evFrame] → s.state ≠ .reading →
    exec i s = .next { s with trace := {} :: s.trace }

/-- R142. -/
def Obligations.ReadLatestReturnsTheReading : Prop :=
  (∀ d : Byte, decode (0xB#4 ++ d) = .readLatest) ∧
  ∀ s : State, ∃ v : Rsp, exec .readLatest s = .next { s with trace := { rsp := v } :: s.trace } ∧
    v.extractLsb' 32 16 = s.pm1 ∧ v.extractLsb' 16 16 = s.pm2_5 ∧ v.extractLsb' 0 16 = s.pm10

/-- R143. -/
def Obligations.ReadCountReturnsTheCounter : Prop :=
  (∀ d : Byte, decode (0xC#4 ++ d) = .readCount) ∧
  ∀ s : State, ∃ v : Rsp, exec .readCount s = .next { s with trace := { rsp := v } :: s.trace } ∧
    v.toNat = s.sample_count.toNat

/-- R144. -/
def Obligations.ReadHealthyReturnsTheFlag : Prop :=
  (∀ d : Byte, decode (0xD#4 ++ d) = .readHealthy) ∧
  ∀ s : State, exec .readHealthy s =
    .next { s with trace := { rsp := if s.healthy then 1#48 else 0#48 } :: s.trace }

/-- R145, R33, R80, R81: READ_STATUS and every field of STATUS. -/
def Obligations.ReadStatusReturnsEveryField : Prop :=
  (∀ d : Byte, decode (0xE#4 ++ d) = .readStatus) ∧
  ∀ s : State, ∃ v : Rsp, exec .readStatus s = .next { s with trace := { rsp := v } :: s.trace } ∧
    (v.extractLsb' 0 3).toNat =
      (match s.state with
        | .idle => 0 | .reading => 1 | .success => 2 | .noFrame => 3 | .checksumFail => 4 | .linkError => 5
        | .stopped => 6) ∧
    (v.extractLsb' 3 3).toNat =
      (match s.err with
        | .none => 0 | .noDataAvailable => 1 | .noValidFrameFound => 2 | .checksumMismatch => 3
        | .bufferOverflow => 4 | .linkEvent => 5) ∧
    v.getLsbD 6 = s.healthy ∧ v.getLsbD 7 = s.stop_req ∧
    v.extractLsb' 8 8 = s.consecutive_failures ∧ v.getLsbD 16 = s.ovf ∧ v.getLsbD 17 = s.link_err ∧
    (s.len ≤ 65535 → (v.extractLsb' 18 16).toNat = s.len) ∧ v.extractLsb' 34 14 = 0#14

/-- R77. -/
def Obligations.ReservedCodeIsRejected : Prop :=
  (∀ d : Byte, decode (0xF#4 ++ d) = .reservedF) ∧
  (∀ w : CmdWord, decode w = .reservedF → w.extractLsb' 8 4 = 0xF#4) ∧
  ∀ s : State, exec .reservedF s = .next { s with trace := { reject := true } :: s.trace }

/-! ## The machine as a whole -/

/-- R78, the whole table: which pairs of command and state are rejected and which are ignored, with what that does; every
other command executes, and its record says `reject = 0`. -/
def Obligations.LegalityTableHolds : Prop :=
  ∀ (i : Instr) (s : State),
    let rejected := (i = .start ∧ s.state ≠ .idle) ∨ (((∃ b, i = .push b) ∨ i = .scan) ∧ s.state ≠ .reading) ∨
      (i = .next ∧ s.state ∈ [Fsm.idle, Fsm.reading, Fsm.stopped]) ∨ i = .reservedF
    let ignored := i ∈ [Instr.evFifoOvf, Instr.evBufFull, Instr.evBreak, Instr.evParity, Instr.evFrame] ∧
      s.state ≠ .reading
    (rejected → exec i s = .next { s with trace := { reject := true } :: s.trace }) ∧
    (ignored → exec i s = .next { s with trace := {} :: s.trace }) ∧
    (¬ rejected → ∀ t, exec i s = .next t → ∃ o, t.trace = o :: s.trace ∧ o.reject = false)

/-- Every command completes in every state whose write pointer is inside a buffer that exists: the block has no
address fault (R52) and nothing is fatal (R193). -/
def Obligations.EveryCommandCompletes : Prop :=
  ∀ (i : Instr) (s : State), 0 < s.cfg.cap → s.len ≤ s.cfg.cap → ∃ t, exec i s = .next t

/-- R151: the complete transition relation of `state`. -/
def Obligations.TransitionRelationIsComplete : Prop :=
  (∀ (i : Instr) (s t : State), exec i s = .next t →
    (s.state = .idle → i = .start → t.state = .reading) ∧
    (s.state = .idle → i = .stop → t.state = .stopped) ∧
    (s.state = .reading → i = .scan →
      ((∃ k f, outcome s = .ok (.ok k f)) ∧ t.state = .success) ∨
      ((outcome s = .ok (.failed .noDataAvailable) ∨ outcome s = .ok (.failed .noValidFrameFound)) ∧
        t.state = .noFrame) ∨
      (outcome s = .ok (.failed .checksumMismatch) ∧ t.state = .checksumFail) ∨
      ((outcome s = .ok (.failed .bufferOverflow) ∨ outcome s = .ok (.failed .linkEvent)) ∧ t.state = .linkError)) ∧
    (s.state ∈ [Fsm.success, Fsm.noFrame, Fsm.checksumFail, Fsm.linkError] → i = .next →
      t.state = if s.stop_req then .stopped else .idle) ∧
    (¬ (s.state = .idle ∧ i = .start) → ¬ (s.state = .idle ∧ i = .stop) → ¬ (s.state = .reading ∧ i = .scan) →
      ¬ (s.state ∈ [Fsm.success, Fsm.noFrame, Fsm.checksumFail, Fsm.linkError] ∧ i = .next) → t.state = s.state)) ∧
  (∀ (s : State) (w : Option CmdWord) (rest : List PortItem), s.port = .hardReset w :: rest →
    ∃ t, step s = .next t ∧ t.state = .idle)

/-- R31: which command writes which state, and what it writes; nothing else does. The parameters, the port and the reset
epoch are written by no command. -/
def Obligations.OnlyTheListedCommandsWrite : Prop :=
  ∀ (i : Instr) (s t : State), exec i s = .next t →
    ((t.pm1 ≠ s.pm1 ∨ t.pm2_5 ≠ s.pm2_5 ∨ t.pm10 ≠ s.pm10 ∨ t.sample_count ≠ s.sample_count) →
      i = .scan ∧ s.state = .reading ∧ t.state = .success) ∧
    (t.consecutive_failures ≠ s.consecutive_failures → i = .scan ∧ s.state = .reading ∧
      (t.consecutive_failures = 0#8 ∨
        (t.state ≠ .success ∧ t.consecutive_failures = s.consecutive_failures + 1#8))) ∧
    (t.healthy ≠ s.healthy → i = .scan ∧ s.state = .reading ∧
      ((t.state = .success ∧ t.healthy = true) ∨
        (t.state ≠ .success ∧ s.cfg.threshold < s.consecutive_failures.toNat + 1 ∧ t.healthy = false))) ∧
    (t.ovf ≠ s.ovf → (i = .start ∧ s.state = .idle ∧ t.ovf = false) ∨
      (∃ b, i = .push b ∧ s.state = .reading ∧ s.len = s.cfg.cap ∧ t.ovf = true)) ∧
    (t.link_err ≠ s.link_err → (i = .start ∧ s.state = .idle ∧ t.link_err = false) ∨
      (i ∈ [Instr.evFifoOvf, Instr.evBufFull, Instr.evBreak, Instr.evParity, Instr.evFrame] ∧
        s.state = .reading ∧ t.link_err = true)) ∧
    (t.stop_req ≠ s.stop_req → (i = .next ∧ t.state = .stopped ∧ t.stop_req = false) ∨
      (i = .stop ∧ s.state ≠ .idle ∧ s.state ≠ .stopped ∧ t.stop_req = true)) ∧
    (t.err ≠ s.err → i = .scan ∧ s.state = .reading ∧ (t.err = .none ↔ t.state = .success)) ∧
    (t.state ≠ s.state → (i = .start ∧ t.state = .reading) ∨ (i = .scan ∧ t.state.isTerminal = true) ∨
      (i = .next ∧ (t.state = .idle ∨ t.state = .stopped)) ∨ (i = .stop ∧ s.state = .idle ∧ t.state = .stopped)) ∧
    (t.buf ≠ s.buf → ∃ b, i = .push b ∧ s.state = .reading ∧ t.buf = Memory.write s.buf (pushAddress s) b) ∧
    (t.len ≠ s.len → (i = .start ∧ t.len = 0) ∨
      ((∃ b, i = .push b) ∧ s.state = .reading ∧ (t.len = s.len + 1 ∨ (s.len = s.cfg.cap ∧ t.len = 1))) ∨
      (i ∈ [Instr.evFifoOvf, Instr.evBufFull] ∧ s.state = .reading ∧ t.len = 0)) ∧
    t.cfg = s.cfg ∧ t.port = s.port ∧ t.epoch = s.epoch

/-- R146, R226: a reading is published only by a SCAN in Reading, with no flag set, from 24 consecutive bytes of the
window with the header and a matching checksum, and whole. -/
def Obligations.OnlyValidatedFramesArePublished : Prop :=
  ∀ (i : Instr) (s t : State), exec i s = .next t →
    (t.pm1 = s.pm1 ∧ t.pm2_5 = s.pm2_5 ∧ t.pm10 = s.pm10 ∧ t.sample_count = s.sample_count) ∨
    (i = .scan ∧ s.state = .reading ∧ s.ovf = false ∧ s.link_err = false ∧ t.state = .success ∧
      ∃ (k : Nat) (f : RawFrame), k + 24 ≤ s.len ∧ f.bytes = ((window s).drop k).take 24 ∧
        f.byte 0 = 0x42#8 ∧ f.byte 1 = 0x4D#8 ∧ sum f = f.stored ∧
        t.pm1 = (extract f).pm1 ∧ t.pm2_5 = (extract f).pm2_5 ∧ t.pm10 = (extract f).pm10)

/-- R21, R141, R35 (h): a step lowers `sample_count` only when it is a hardware reset, and raises it by at most one, up to
saturation. -/
def Obligations.SampleCountNeverDecreases : Prop :=
  ∀ s t : State, step s = .next t → (∀ w rest, s.port ≠ .hardReset w :: rest) →
    s.sample_count.toNat ≤ t.sample_count.toNat ∧ t.sample_count.toNat ≤ s.sample_count.toNat + 1

/-- R52, R56, R101: PUSH in Reading stores one byte, at the write pointer or at 0 when the buffer is full, inside `buf`;
every other cell reads as before, and no other command stores anything. -/
def Obligations.OnlyPushStoresAndOnlyOneByte : Prop :=
  ∀ (i : Instr) (s t : State), exec i s = .next t →
    (∀ b, i = .push b → s.state = .reading →
      pushAddress s < s.cfg.cap ∧ pushAddress s = (if s.len = s.cfg.cap then 0 else s.len) ∧
      memRead1 t (pushAddress s) = b ∧ ∀ a, a ≠ pushAddress s → memRead1 t a = memRead1 s a) ∧
    ((∀ b, i = .push b → s.state ≠ .reading) → ∀ a, memRead1 t a = memRead1 s a)

/-- R7, R40, R60: a command answers exactly one output record, and neither what the host will present later nor what was
answered before has any part in what it does. -/
def Obligations.RecordDependsOnStateAndCommandOnly : Prop :=
  ∀ (i : Instr) (s t : State) (p : List PortItem) (os : List Out), exec i s = .next t →
    ∃ o, t.trace = o :: s.trace ∧
      exec i { s with port := p, trace := os } = .next { t with port := p, trace := o :: os }

/-- R35 (d), R222, U1: what the cells outside the window hold, and what they held before they were written, can never
influence a register, an output record or a later window. -/
def Obligations.UnspecifiedCellsNeverMatter : Prop :=
  ∀ s s' t : State, SameVisible s s' → step s = .next t → ∃ t', step s' = .next t' ∧ SameVisible t t'

/-- A step runs the decoded command of the word at the head of the port, on the state with the word taken; with nothing
presented the block waits. That the port is a list in the state is the model's choice (notes/assumptions/1.md). -/
def Obligations.StepRunsTheDecodedCommand : Prop :=
  (∀ (s : State) (w : CmdWord) (rest : List PortItem), s.port = .command w :: rest →
    step s = exec (decode w) { s with port := rest }) ∧
  (∀ s : State, s.port = [] → step s = .next s) ∧
  (∀ (s : State) (n w : Nat) (i : Instr), w < 4096 → decodeTableWord n w = some i →
    step (s.withFetchWord n w) = exec i s)

/-- R220, U8: hardware reset, alone or together with a command, which is not executed and answers no record. That the
parameters, the port and the trace survive is the model's reading (notes/assumptions/3.md). -/
def Obligations.HardwareResetSetsEveryRegister : Prop :=
  ∀ (s : State) (w : Option CmdWord) (rest : List PortItem), s.port = .hardReset w :: rest →
    ∃ t, step s = .next t ∧
      t.state = .idle ∧ t.pm1 = 0#16 ∧ t.pm2_5 = 0#16 ∧ t.pm10 = 0#16 ∧ t.sample_count = 0#32 ∧
      t.consecutive_failures = 0#8 ∧ t.healthy = true ∧ t.ovf = false ∧ t.link_err = false ∧ t.stop_req = false ∧
      t.err = .none ∧ t.len = 0 ∧ (∀ a, Memory.read t.buf a = none) ∧
      t.cfg = s.cfg ∧ t.port = rest ∧ t.trace = s.trace

/-- R45: the values after hardware reset; no cell of `buf` has one. -/
def Obligations.ResetValuesAreTheListedOnes : Prop :=
  State.reset.state = .idle ∧ State.reset.pm1 = 0#16 ∧ State.reset.pm2_5 = 0#16 ∧ State.reset.pm10 = 0#16 ∧
  State.reset.sample_count = 0#32 ∧ State.reset.consecutive_failures = 0#8 ∧ State.reset.healthy = true ∧
  State.reset.ovf = false ∧ State.reset.link_err = false ∧ State.reset.stop_req = false ∧ State.reset.err = .none ∧
  State.reset.len = 0 ∧ (∀ a, Memory.read State.reset.buf a = none) ∧ status State.reset = 0x000000000040#48

/-- The invariant holds after reset, for every legal pair of parameters. -/
def Obligations.ResetMeetsTheInvariant : Prop :=
  BlockInvariant State.reset ∧ ∀ p : Params, p.wf → BlockInvariant (State.resetWith p)

/-- R35: every step keeps the invariant, from every state that meets it, whatever the host presents. -/
def Obligations.EveryStepKeepsTheInvariant : Prop :=
  ∀ s t : State, BlockInvariant s → step s = .next t → BlockInvariant t

/-- R193, R52, R226: on every run, with any legal parameters and any host, the invariant holds and the block never stops. -/
def Obligations.NoRunEverStops : Prop :=
  ∀ s : State, Reachable s → BlockInvariant s ∧ Safe s

/-- R159: no command leaves Stopped, and every register keeps its value there. -/
def Obligations.NoCommandLeavesStopped : Prop :=
  ∀ (is : List Instr) (s : State), s.state = .stopped →
    ∃ t, runCommands is s = .next t ∧ SameRegisters s t ∧ t.buf = s.buf ∧ t.trace.length = s.trace.length + is.length

/-- R148: two READ_LATEST return different values only if a SCAN that ended in Success executed between them and it
recorded a different reading. -/
def Obligations.ReadsAreIdempotent : Prop :=
  ∀ (is : List Instr) (s t : State), runCommands ([.readLatest] ++ is ++ [.readLatest]) s = .next t →
    ∃ (v v' : Rsp) (os : List Out),
      t.trace = { rsp := v' } :: (os ++ { rsp := v } :: s.trace) ∧ os.length = is.length ∧
      (v' ≠ v → ∃ (pre post : List Instr) (x y : State),
        is = pre ++ [.scan] ++ post ∧ runCommands ([.readLatest] ++ pre) s = .next x ∧ exec .scan x = .next y ∧
        x.state = .reading ∧ y.state = .success ∧
        (y.pm1 ≠ x.pm1 ∨ y.pm2_5 ≠ x.pm2_5 ∨ y.pm10 ≠ x.pm10))

/-! ## The synchronizer, the validator, the extractor -/

/-- R110, R111: the candidates are exactly the offsets of R110, in descending order, at most `len - 23` of them. -/
def Obligations.CandidatesAreTheHeaderOffsets : Prop :=
  ∀ w : List Byte,
    (∀ i, i ∈ candidates w ↔ (i + 24 ≤ w.length ∧ w[i]? = some 0x42#8 ∧ w[i + 1]? = some 0x4D#8)) ∧
    (candidates w).Pairwise (fun i j => j < i) ∧
    (candidates w).length ≤ w.length - 23 ∧
    (w.length < 24 → candidates w = [])

/-- R112: the downward walk of the hardware finds the same offsets in the same order. -/
def Obligations.HardwareWalkFindsTheCandidates : Prop := ∀ w : List Byte, walk w = candidates w

/-- R116: the first candidate, in scan order, that validates. -/
def Obligations.FirstValidIsFirstInScanOrder : Prop :=
  ∀ w : List Byte, firstValid w = (candidates w).find? (fun i => (frame w i).any validate)

/-- R118: `first_valid` is the greatest offset that is a candidate and validates, or none when there is none; the
streaming design, which checks each 24-byte frame as its last byte arrives, finds the same one and the same `cand_seen`. -/
def Obligations.StreamingDetectorAgrees : Prop :=
  ∀ w : List Byte,
    (∀ i, firstValid w = some i ↔
      (cand w i = true ∧ (frame w i).any validate = true) ∧
        ∀ j, i < j → ¬ (cand w j = true ∧ (frame w j).any validate = true)) ∧
    (firstValid w = none ↔ ∀ j, ¬ (cand w j = true ∧ (frame w j).any validate = true)) ∧
    (stream w).last = firstValid w ∧ (stream w).seen = candSeen w

/-- R120, R121, R122, R126: validation is the two header bytes and the sum of bytes 0..21 modulo 65536. -/
def Obligations.ValidateIsHeaderAndSum : Prop :=
  ∀ f : RawFrame, validate f = true ↔
    f.byte 0 = 0x42#8 ∧ f.byte 1 = 0x4D#8 ∧
      (∑ k : Fin 22, (f.byte (k.castLE (by decide))).toNat) % 65536 = (f.byte 22).toNat * 256 + (f.byte 23).toNat

/-- R124: the bounds of the sum, so that the carry is never discarded. -/
def Obligations.SumStaysInBounds : Prop :=
  ∀ f : RawFrame,
    (sum f).toNat = ∑ k : Fin 22, (f.byte (k.castLE (by decide))).toNat ∧
    (sum f).toNat ≤ 5610 ∧
    (f.byte 0 = 0x42#8 → f.byte 1 = 0x4D#8 → 143 ≤ (sum f).toNat ∧ (sum f).toNat ≤ 5243) ∧
    (validate f = true → 143 ≤ f.stored.toNat ∧ f.stored.toNat ≤ 5243 ∧ (f.byte 22).toNat ≤ 0x14)

/-- R126: a frame with the header and a correctly computed checksum validates; and every 24 bytes with the header become
such a frame when their checksum is computed and stored. -/
def Obligations.WellFormedFramesValidate : Prop :=
  (∀ f : RawFrame, f.byte 0 = 0x42#8 → f.byte 1 = 0x4D#8 →
    (f.byte 22).toNat * 256 + (f.byte 23).toNat = (sum f).toNat → validate f = true) ∧
  (∀ f : RawFrame, f.byte 0 = 0x42#8 → f.byte 1 = 0x4D#8 →
    validate (withChecksum f) = true ∧ ∀ k : Fin 24, k.val < 22 → (withChecksum f).byte k = f.byte k)

/-- R125: every change of one byte is detected, every change confined to the stored checksum is detected, and changes
that cancel in the sum are not. -/
def Obligations.SingleByteChangesAreDetected : Prop :=
  (∀ (f : RawFrame) (k : Fin 24) (b : Byte), validate f = true → b ≠ f.byte k → validate (f.set k b) = false) ∧
  (∀ f g : RawFrame, validate f = true → (∀ k : Fin 24, k.val < 22 → g.byte k = f.byte k) → g ≠ f →
    validate g = false) ∧
  (∀ f g : RawFrame, validate f = true → g.byte 0 = f.byte 0 → g.byte 1 = f.byte 1 →
    g.byte 22 = f.byte 22 → g.byte 23 = f.byte 23 →
    (∑ k : Fin 22, (g.byte (k.castLE (by decide))).toNat) = (∑ k : Fin 22, (f.byte (k.castLE (by decide))).toNat) →
    validate g = true)

/-- R54, R72, R130: the three fields, as byte pairs of the frame and as big-endian loads from the buffer. -/
def Obligations.ExtractReadsBigEndianPairs : Prop :=
  (∀ f : RawFrame,
    (extract f).pm1.toNat = (f.byte 4).toNat * 256 + (f.byte 5).toNat ∧
    (extract f).pm2_5.toNat = (f.byte 6).toNat * 256 + (f.byte 7).toNat ∧
    (extract f).pm10.toNat = (f.byte 8).toNat * 256 + (f.byte 9).toNat) ∧
  (∀ (s : State) (i : Nat) (f : RawFrame), frame (window s) i = some f →
    extract f = ⟨memRead2 s (i + 4), memRead2 s (i + 6), memRead2 s (i + 8)⟩ ∧
    f.stored = memRead2 s (i + 22))

/-- R134, R85: the 24 bytes of FRAME form a frame that validates and extracts to its operands. -/
def Obligations.SyntheticFrameRoundTrip : Prop :=
  ∀ r : Reading, ∃ f : RawFrame, RawFrame.ofBytes (frameBytes r) = some f ∧ validate f = true ∧ extract f = r

/-! ## Cycles -/

/-- R134 through the whole pipeline: a cycle over FRAME publishes its operands, whatever the block did before. -/
def Obligations.PipelineRoundTrip : Prop :=
  ∀ (s : State) (r : Reading), s.cfg.wf → s.state = .idle → s.stop_req = false →
    ∃ t, runCommands (cycleCmds (frameCmds r) ++ [.readLatest]) s = .next t ∧
      t.trace.head? = some { rsp := r.pm1 ++ r.pm2_5 ++ r.pm10 } ∧
      t.pm1 = r.pm1 ∧ t.pm2_5 = r.pm2_5 ∧ t.pm10 = r.pm10 ∧
      t.sample_count.toNat = min (s.sample_count.toNat + 1) 0xFFFFFFFF ∧
      t.consecutive_failures = 0#8 ∧ t.healthy = true ∧ t.err = .none ∧ t.state = .idle ∧ t.len = 24

/-- R105: what the window is after `n` PUSH commands into an empty buffer, when it has overflowed, and how often. -/
def Obligations.WindowAfterPushes : Prop :=
  ∀ (bs : List Byte) (s : State), s.cfg.wf → s.state = .reading → s.len = 0 →
    ∃ t, runCommands (appendCmds bs) s = .next t ∧ t.state = .reading ∧
      (bs.length ≤ s.cfg.cap → window t = bs ∧ t.ovf = s.ovf) ∧
      (s.cfg.cap < bs.length → t.ovf = true ∧
        window t = bs.drop (bs.length - ((bs.length - 1) % s.cfg.cap + 1))) ∧
      overflowPulses t.trace = overflowPulses s.trace + (bs.length - 1) / s.cfg.cap

/-- R194: the ordered tests of a cycle's outcome. -/
def Obligations.OutcomePriority : Prop :=
  ∀ s : State, s.len ≤ s.cfg.cap →
    (s.ovf = true → outcome s = .ok (.failed .bufferOverflow)) ∧
    (s.ovf = false → s.link_err = true → outcome s = .ok (.failed .linkEvent)) ∧
    (s.ovf = false → s.link_err = false → s.len = 0 → outcome s = .ok (.failed .noDataAvailable)) ∧
    (s.ovf = false → s.link_err = false → s.len ≠ 0 →
      (∀ i, firstValid (window s) = some i →
        ∃ f, frame (window s) i = some f ∧ outcome s = .ok (.ok i f)) ∧
      (firstValid (window s) = none → candidates (window s) ≠ [] → outcome s = .ok (.failed .checksumMismatch)) ∧
      (firstValid (window s) = none → candidates (window s) = [] → outcome s = .ok (.failed .noValidFrameFound)))

/-- R195 (a), (b), (c), (d), (h): corner cases of a SCAN. -/
def Obligations.ScanCornerCases : Prop :=
  ∀ s : State, s.state = .reading → s.len ≤ s.cfg.cap → s.ovf = false →
    ∃ t, exec .scan s = .next t ∧
      (s.link_err = false → 1 ≤ s.len → s.len ≤ 23 → t.state = .noFrame ∧ t.err = .noValidFrameFound) ∧
      (s.link_err = false → 24 ≤ s.len →
        (∀ i, i + 24 ≤ s.len → ¬ (memRead1 s i = 0x42#8 ∧ memRead1 s (i + 1) = 0x4D#8)) →
        t.state = .noFrame ∧ t.err = .noValidFrameFound) ∧
      (s.link_err = false → (∃ i, cand (window s) i = true) →
        (∀ i, cand (window s) i = true → (frame (window s) i).any validate = false) →
        t.state = .checksumFail ∧ t.err = .checksumMismatch) ∧
      (s.link_err = false → (∃ i, cand (window s) i = true ∧ (frame (window s) i).any validate = true) →
        t.state = .success ∧ t.err = .none) ∧
      (s.link_err = true → t.state = .linkError ∧ t.err = .linkEvent)

/-- R184, R181: once a device event came in a cycle, nothing the host sends before the SCAN can save the cycle: it ends in
LinkError and publishes nothing. -/
def Obligations.AnEventFailsTheCycle : Prop :=
  ∀ (is : List Instr) (s t : State), s.state = .reading → s.link_err = true → (∀ i ∈ is, i ≠ .scan) →
    runCommands (is ++ [.scan]) s = .next t →
    t.state = .linkError ∧ (t.err = .bufferOverflow ∨ t.err = .linkEvent) ∧
    t.pm1 = s.pm1 ∧ t.pm2_5 = s.pm2_5 ∧ t.pm10 = s.pm10 ∧ t.sample_count = s.sample_count

/-- R199: three consecutive cycles that end ChecksumFail give exactly one channel reset, in the third. -/
def Obligations.ThreeChecksumFailuresResetOnce : Prop :=
  ∀ (b₁ b₂ b₃ : List Byte) (s : State),
    s.cfg.wf → s.cfg.threshold = 2 → s.state = .idle → s.stop_req = false → s.consecutive_failures = 0#8 →
    (∀ b ∈ [b₁, b₂, b₃], b.length ≤ s.cfg.cap ∧ candidates b ≠ [] ∧ firstValid b = none) →
    ∃ t₁ t₂ t₃, runCommands (cycleCmds (appendCmds b₁)) s = .next t₁ ∧
      runCommands (cycleCmds (appendCmds b₂)) t₁ = .next t₂ ∧ runCommands (cycleCmds (appendCmds b₃)) t₂ = .next t₃ ∧
      t₁.err = .checksumMismatch ∧ t₂.err = .checksumMismatch ∧ t₃.err = .checksumMismatch ∧
      t₁.consecutive_failures = 1#8 ∧ t₂.consecutive_failures = 2#8 ∧ t₃.consecutive_failures = 0#8 ∧
      chanResets t₁.trace = chanResets s.trace ∧ chanResets t₂.trace = chanResets s.trace ∧
      chanResets t₃.trace = chanResets s.trace + 1 ∧ t₁.sample_count = s.sample_count ∧
      t₂.sample_count = s.sample_count ∧ t₃.sample_count = s.sample_count ∧ t₃.healthy = false

/-- R194, R105, R181: the outcome of a cycle is decided by the commands between its START and its SCAN and by the
parameters, whatever the block did before; with it, which bodies fail, and how. -/
def Obligations.CycleOutcomeIsDecidedByItsBody : Prop :=
  ∀ (body : List Instr) (s : State), s.cfg.wf → s.state = .idle → (∀ i ∈ body, i ≠ .scan) →
    (∃ u o, runCommands ([.start] ++ body) s = .next u ∧ u.state = .reading ∧ outcome u = .ok o ∧
      bodyOutcome s.cfg body = some o) ∧
    ((∃ i ∈ body, i ∈ [Instr.evFifoOvf, Instr.evBufFull, Instr.evBreak, Instr.evParity, Instr.evFrame]) →
      bodyOutcome s.cfg body = some (.failed .bufferOverflow) ∨
        bodyOutcome s.cfg body = some (.failed .linkEvent)) ∧
    (∀ bs : List Byte, body = appendCmds bs →
      (s.cfg.cap < bs.length → bodyOutcome s.cfg body = some (.failed .bufferOverflow)) ∧
      (bs = [] → bodyOutcome s.cfg body = some (.failed .noDataAvailable)) ∧
      (bs ≠ [] → bs.length ≤ s.cfg.cap →
        (∀ i, firstValid bs = some i → ∃ f, frame bs i = some f ∧ bodyOutcome s.cfg body = some (.ok i f)) ∧
        (firstValid bs = none → candidates bs ≠ [] → bodyOutcome s.cfg body = some (.failed .checksumMismatch)) ∧
        (firstValid bs = none → candidates bs = [] → bodyOutcome s.cfg body = some (.failed .noValidFrameFound))))

/-- R200: under sustained failure of any kind the escalation repeats every `THRESHOLD + 1` cycles. A cycle is any commands
but SCAN and STOP between its START and its SCAN, device events and pushes beyond `CAP` included, that fail it (R194). -/
def Obligations.SustainedFailureEscalatesPeriodically : Prop :=
  ∀ (bodies : List (List Instr)) (s : State),
    s.cfg.wf → s.state = .idle → s.stop_req = false → s.consecutive_failures = 0#8 →
    (∀ b ∈ bodies, (∀ i ∈ b, i ≠ .scan ∧ i ≠ .stop) ∧ ∃ c, bodyOutcome s.cfg b = some (.failed c)) →
    ∃ t, runCommands (bodies.flatMap cycleCmds) s = .next t ∧
      t.consecutive_failures.toNat = bodies.length % (s.cfg.threshold + 1) ∧
      chanResets t.trace = chanResets s.trace + bodies.length / (s.cfg.threshold + 1) ∧
      t.healthy = (s.healthy && decide (bodies.length ≤ s.cfg.threshold)) ∧
      t.state = .idle ∧ t.pm1 = s.pm1 ∧ t.pm2_5 = s.pm2_5 ∧ t.pm10 = s.pm10 ∧ t.sample_count = s.sample_count

/-! ## The buffer as memory -/

/-- R60, R56: a load returns the latest earlier store to its cell, and a store leaves every other cell alone. The last two
clauses are no rule of the spec: that a memory has a canonical form, which a store keeps, and that two memories in that
form that read alike are equal, is the model's own choice (notes/assumptions/6.md, DESIGN CHOICE). -/
def Obligations.MemoryIsReadAfterWrite : Prop :=
  (∀ (m : Memory) (a : Nat) (b : Byte), Memory.read (Memory.write m a b) a = some b) ∧
  (∀ (m : Memory) (a a' : Nat) (b : Byte), a' ≠ a → Memory.read (Memory.write m a b) a' = Memory.read m a') ∧
  (∀ (m : Memory) (a : Nat) (b : Byte), Memory.wf m → Memory.wf (Memory.write m a b)) ∧
  (∀ m m' : Memory, Memory.wf m → Memory.wf m' → (∀ a, Memory.read m a = Memory.read m' a) → m = m')
end

