-- ==== Sys2Proof/Laws/State.lean ====
section
/-! SUPPORT. One lemma for each field of State under each named update, so that no later proof unfolds a record update. -/

namespace Sys2Proof.Machine

/-! ## `emit` -/

@[simp] theorem emit_cfg (o : Out) (s : State) : (emit o s).cfg = s.cfg := rfl
@[simp] theorem emit_pm1 (o : Out) (s : State) : (emit o s).pm1 = s.pm1 := rfl
@[simp] theorem emit_pm2_5 (o : Out) (s : State) : (emit o s).pm2_5 = s.pm2_5 := rfl
@[simp] theorem emit_pm10 (o : Out) (s : State) : (emit o s).pm10 = s.pm10 := rfl
@[simp] theorem emit_sample_count (o : Out) (s : State) : (emit o s).sample_count = s.sample_count := rfl
@[simp] theorem emit_consecutive_failures (o : Out) (s : State) : (emit o s).consecutive_failures = s.consecutive_failures := rfl
@[simp] theorem emit_state (o : Out) (s : State) : (emit o s).state = s.state := rfl
@[simp] theorem emit_healthy (o : Out) (s : State) : (emit o s).healthy = s.healthy := rfl
@[simp] theorem emit_ovf (o : Out) (s : State) : (emit o s).ovf = s.ovf := rfl
@[simp] theorem emit_link_err (o : Out) (s : State) : (emit o s).link_err = s.link_err := rfl
@[simp] theorem emit_stop_req (o : Out) (s : State) : (emit o s).stop_req = s.stop_req := rfl
@[simp] theorem emit_err (o : Out) (s : State) : (emit o s).err = s.err := rfl
@[simp] theorem emit_buf (o : Out) (s : State) : (emit o s).buf = s.buf := rfl
@[simp] theorem emit_len (o : Out) (s : State) : (emit o s).len = s.len := rfl
@[simp] theorem emit_epoch (o : Out) (s : State) : (emit o s).epoch = s.epoch := rfl
@[simp] theorem emit_port (o : Out) (s : State) : (emit o s).port = s.port := rfl
@[simp] theorem emit_trace (o : Out) (s : State) : (emit o s).trace = o :: s.trace := rfl

/-! ## `setCell` -/

@[simp] theorem setCell_cfg (a : Nat) (b : Byte) (s : State) : (setCell a b s).cfg = s.cfg := rfl
@[simp] theorem setCell_pm1 (a : Nat) (b : Byte) (s : State) : (setCell a b s).pm1 = s.pm1 := rfl
@[simp] theorem setCell_pm2_5 (a : Nat) (b : Byte) (s : State) : (setCell a b s).pm2_5 = s.pm2_5 := rfl
@[simp] theorem setCell_pm10 (a : Nat) (b : Byte) (s : State) : (setCell a b s).pm10 = s.pm10 := rfl
@[simp] theorem setCell_sample_count (a : Nat) (b : Byte) (s : State) : (setCell a b s).sample_count = s.sample_count := rfl
@[simp] theorem setCell_consecutive_failures (a : Nat) (b : Byte) (s : State) : (setCell a b s).consecutive_failures = s.consecutive_failures := rfl
@[simp] theorem setCell_state (a : Nat) (b : Byte) (s : State) : (setCell a b s).state = s.state := rfl
@[simp] theorem setCell_healthy (a : Nat) (b : Byte) (s : State) : (setCell a b s).healthy = s.healthy := rfl
@[simp] theorem setCell_ovf (a : Nat) (b : Byte) (s : State) : (setCell a b s).ovf = s.ovf := rfl
@[simp] theorem setCell_link_err (a : Nat) (b : Byte) (s : State) : (setCell a b s).link_err = s.link_err := rfl
@[simp] theorem setCell_stop_req (a : Nat) (b : Byte) (s : State) : (setCell a b s).stop_req = s.stop_req := rfl
@[simp] theorem setCell_err (a : Nat) (b : Byte) (s : State) : (setCell a b s).err = s.err := rfl
@[simp] theorem setCell_buf (a : Nat) (b : Byte) (s : State) : (setCell a b s).buf = Memory.write s.buf a b := rfl
@[simp] theorem setCell_len (a : Nat) (b : Byte) (s : State) : (setCell a b s).len = s.len := rfl
@[simp] theorem setCell_epoch (a : Nat) (b : Byte) (s : State) : (setCell a b s).epoch = s.epoch := rfl
@[simp] theorem setCell_port (a : Nat) (b : Byte) (s : State) : (setCell a b s).port = s.port := rfl
@[simp] theorem setCell_trace (a : Nat) (b : Byte) (s : State) : (setCell a b s).trace = s.trace := rfl

/-! ## `bufClear` -/

@[simp] theorem bufClear_cfg (s : State) : (bufClear s).cfg = s.cfg := rfl
@[simp] theorem bufClear_pm1 (s : State) : (bufClear s).pm1 = s.pm1 := rfl
@[simp] theorem bufClear_pm2_5 (s : State) : (bufClear s).pm2_5 = s.pm2_5 := rfl
@[simp] theorem bufClear_pm10 (s : State) : (bufClear s).pm10 = s.pm10 := rfl
@[simp] theorem bufClear_sample_count (s : State) : (bufClear s).sample_count = s.sample_count := rfl
@[simp] theorem bufClear_consecutive_failures (s : State) : (bufClear s).consecutive_failures = s.consecutive_failures := rfl
@[simp] theorem bufClear_state (s : State) : (bufClear s).state = s.state := rfl
@[simp] theorem bufClear_healthy (s : State) : (bufClear s).healthy = s.healthy := rfl
@[simp] theorem bufClear_ovf (s : State) : (bufClear s).ovf = s.ovf := rfl
@[simp] theorem bufClear_link_err (s : State) : (bufClear s).link_err = s.link_err := rfl
@[simp] theorem bufClear_stop_req (s : State) : (bufClear s).stop_req = s.stop_req := rfl
@[simp] theorem bufClear_err (s : State) : (bufClear s).err = s.err := rfl
@[simp] theorem bufClear_buf (s : State) : (bufClear s).buf = s.buf := rfl
@[simp] theorem bufClear_len (s : State) : (bufClear s).len = 0 := rfl
@[simp] theorem bufClear_epoch (s : State) : (bufClear s).epoch = s.epoch := rfl
@[simp] theorem bufClear_port (s : State) : (bufClear s).port = s.port := rfl
@[simp] theorem bufClear_trace (s : State) : (bufClear s).trace = s.trace := rfl

/-! ## `afterPush` -/

@[simp] theorem afterPush_cfg (full : Bool) (a : Nat) (s : State) : (afterPush full a s).cfg = s.cfg := rfl
@[simp] theorem afterPush_pm1 (full : Bool) (a : Nat) (s : State) : (afterPush full a s).pm1 = s.pm1 := rfl
@[simp] theorem afterPush_pm2_5 (full : Bool) (a : Nat) (s : State) : (afterPush full a s).pm2_5 = s.pm2_5 := rfl
@[simp] theorem afterPush_pm10 (full : Bool) (a : Nat) (s : State) : (afterPush full a s).pm10 = s.pm10 := rfl
@[simp] theorem afterPush_sample_count (full : Bool) (a : Nat) (s : State) : (afterPush full a s).sample_count = s.sample_count := rfl
@[simp] theorem afterPush_consecutive_failures (full : Bool) (a : Nat) (s : State) : (afterPush full a s).consecutive_failures = s.consecutive_failures := rfl
@[simp] theorem afterPush_state (full : Bool) (a : Nat) (s : State) : (afterPush full a s).state = s.state := rfl
@[simp] theorem afterPush_healthy (full : Bool) (a : Nat) (s : State) : (afterPush full a s).healthy = s.healthy := rfl
@[simp] theorem afterPush_ovf (full : Bool) (a : Nat) (s : State) : (afterPush full a s).ovf = (s.ovf || full) := rfl
@[simp] theorem afterPush_link_err (full : Bool) (a : Nat) (s : State) : (afterPush full a s).link_err = s.link_err := rfl
@[simp] theorem afterPush_stop_req (full : Bool) (a : Nat) (s : State) : (afterPush full a s).stop_req = s.stop_req := rfl
@[simp] theorem afterPush_err (full : Bool) (a : Nat) (s : State) : (afterPush full a s).err = s.err := rfl
@[simp] theorem afterPush_buf (full : Bool) (a : Nat) (s : State) : (afterPush full a s).buf = s.buf := rfl
@[simp] theorem afterPush_len (full : Bool) (a : Nat) (s : State) : (afterPush full a s).len = a + 1 := rfl
@[simp] theorem afterPush_epoch (full : Bool) (a : Nat) (s : State) : (afterPush full a s).epoch = s.epoch := rfl
@[simp] theorem afterPush_port (full : Bool) (a : Nat) (s : State) : (afterPush full a s).port = s.port := rfl
@[simp] theorem afterPush_trace (full : Bool) (a : Nat) (s : State) : (afterPush full a s).trace = s.trace := rfl

/-! ## `enterReading` -/

@[simp] theorem enterReading_cfg (s : State) : (enterReading s).cfg = s.cfg := rfl
@[simp] theorem enterReading_pm1 (s : State) : (enterReading s).pm1 = s.pm1 := rfl
@[simp] theorem enterReading_pm2_5 (s : State) : (enterReading s).pm2_5 = s.pm2_5 := rfl
@[simp] theorem enterReading_pm10 (s : State) : (enterReading s).pm10 = s.pm10 := rfl
@[simp] theorem enterReading_sample_count (s : State) : (enterReading s).sample_count = s.sample_count := rfl
@[simp] theorem enterReading_consecutive_failures (s : State) : (enterReading s).consecutive_failures = s.consecutive_failures := rfl
@[simp] theorem enterReading_state (s : State) : (enterReading s).state = .reading := rfl
@[simp] theorem enterReading_healthy (s : State) : (enterReading s).healthy = s.healthy := rfl
@[simp] theorem enterReading_ovf (s : State) : (enterReading s).ovf = false := rfl
@[simp] theorem enterReading_link_err (s : State) : (enterReading s).link_err = false := rfl
@[simp] theorem enterReading_stop_req (s : State) : (enterReading s).stop_req = s.stop_req := rfl
@[simp] theorem enterReading_err (s : State) : (enterReading s).err = s.err := rfl
@[simp] theorem enterReading_buf (s : State) : (enterReading s).buf = s.buf := rfl
@[simp] theorem enterReading_len (s : State) : (enterReading s).len = 0 := rfl
@[simp] theorem enterReading_epoch (s : State) : (enterReading s).epoch = s.epoch := rfl
@[simp] theorem enterReading_port (s : State) : (enterReading s).port = s.port := rfl
@[simp] theorem enterReading_trace (s : State) : (enterReading s).trace = s.trace := rfl

/-! ## `markLinkError` -/

@[simp] theorem markLinkError_cfg (s : State) : (markLinkError s).cfg = s.cfg := rfl
@[simp] theorem markLinkError_pm1 (s : State) : (markLinkError s).pm1 = s.pm1 := rfl
@[simp] theorem markLinkError_pm2_5 (s : State) : (markLinkError s).pm2_5 = s.pm2_5 := rfl
@[simp] theorem markLinkError_pm10 (s : State) : (markLinkError s).pm10 = s.pm10 := rfl
@[simp] theorem markLinkError_sample_count (s : State) : (markLinkError s).sample_count = s.sample_count := rfl
@[simp] theorem markLinkError_consecutive_failures (s : State) : (markLinkError s).consecutive_failures = s.consecutive_failures := rfl
@[simp] theorem markLinkError_state (s : State) : (markLinkError s).state = s.state := rfl
@[simp] theorem markLinkError_healthy (s : State) : (markLinkError s).healthy = s.healthy := rfl
@[simp] theorem markLinkError_ovf (s : State) : (markLinkError s).ovf = s.ovf := rfl
@[simp] theorem markLinkError_link_err (s : State) : (markLinkError s).link_err = true := rfl
@[simp] theorem markLinkError_stop_req (s : State) : (markLinkError s).stop_req = s.stop_req := rfl
@[simp] theorem markLinkError_err (s : State) : (markLinkError s).err = s.err := rfl
@[simp] theorem markLinkError_buf (s : State) : (markLinkError s).buf = s.buf := rfl
@[simp] theorem markLinkError_len (s : State) : (markLinkError s).len = s.len := rfl
@[simp] theorem markLinkError_epoch (s : State) : (markLinkError s).epoch = s.epoch := rfl
@[simp] theorem markLinkError_port (s : State) : (markLinkError s).port = s.port := rfl
@[simp] theorem markLinkError_trace (s : State) : (markLinkError s).trace = s.trace := rfl

/-! ## `recordSuccess` -/

@[simp] theorem recordSuccess_cfg (f : RawFrame) (s : State) : (recordSuccess f s).cfg = s.cfg := rfl
@[simp] theorem recordSuccess_pm1 (f : RawFrame) (s : State) : (recordSuccess f s).pm1 = (extract f).pm1 := rfl
@[simp] theorem recordSuccess_pm2_5 (f : RawFrame) (s : State) : (recordSuccess f s).pm2_5 = (extract f).pm2_5 := rfl
@[simp] theorem recordSuccess_pm10 (f : RawFrame) (s : State) : (recordSuccess f s).pm10 = (extract f).pm10 := rfl
@[simp] theorem recordSuccess_sample_count (f : RawFrame) (s : State) : (recordSuccess f s).sample_count = countSample s.sample_count := rfl
@[simp] theorem recordSuccess_consecutive_failures (f : RawFrame) (s : State) : (recordSuccess f s).consecutive_failures = 0#8 := rfl
@[simp] theorem recordSuccess_state (f : RawFrame) (s : State) : (recordSuccess f s).state = .success := rfl
@[simp] theorem recordSuccess_healthy (f : RawFrame) (s : State) : (recordSuccess f s).healthy = true := rfl
@[simp] theorem recordSuccess_ovf (f : RawFrame) (s : State) : (recordSuccess f s).ovf = s.ovf := rfl
@[simp] theorem recordSuccess_link_err (f : RawFrame) (s : State) : (recordSuccess f s).link_err = s.link_err := rfl
@[simp] theorem recordSuccess_stop_req (f : RawFrame) (s : State) : (recordSuccess f s).stop_req = s.stop_req := rfl
@[simp] theorem recordSuccess_err (f : RawFrame) (s : State) : (recordSuccess f s).err = .none := rfl
@[simp] theorem recordSuccess_buf (f : RawFrame) (s : State) : (recordSuccess f s).buf = s.buf := rfl
@[simp] theorem recordSuccess_len (f : RawFrame) (s : State) : (recordSuccess f s).len = s.len := rfl
@[simp] theorem recordSuccess_epoch (f : RawFrame) (s : State) : (recordSuccess f s).epoch = s.epoch := rfl
@[simp] theorem recordSuccess_port (f : RawFrame) (s : State) : (recordSuccess f s).port = s.port := rfl
@[simp] theorem recordSuccess_trace (f : RawFrame) (s : State) : (recordSuccess f s).trace = s.trace := rfl

/-! ## `recordFailure` -/

@[simp] theorem recordFailure_cfg (c : Failure) (s : State) : (recordFailure c s).cfg = s.cfg := rfl
@[simp] theorem recordFailure_pm1 (c : Failure) (s : State) : (recordFailure c s).pm1 = s.pm1 := rfl
@[simp] theorem recordFailure_pm2_5 (c : Failure) (s : State) : (recordFailure c s).pm2_5 = s.pm2_5 := rfl
@[simp] theorem recordFailure_pm10 (c : Failure) (s : State) : (recordFailure c s).pm10 = s.pm10 := rfl
@[simp] theorem recordFailure_sample_count (c : Failure) (s : State) : (recordFailure c s).sample_count = s.sample_count := rfl
@[simp] theorem recordFailure_consecutive_failures (c : Failure) (s : State) : (recordFailure c s).consecutive_failures = s.consecutive_failures := rfl
@[simp] theorem recordFailure_state (c : Failure) (s : State) : (recordFailure c s).state = c.terminal := rfl
@[simp] theorem recordFailure_healthy (c : Failure) (s : State) : (recordFailure c s).healthy = s.healthy := rfl
@[simp] theorem recordFailure_ovf (c : Failure) (s : State) : (recordFailure c s).ovf = s.ovf := rfl
@[simp] theorem recordFailure_link_err (c : Failure) (s : State) : (recordFailure c s).link_err = s.link_err := rfl
@[simp] theorem recordFailure_stop_req (c : Failure) (s : State) : (recordFailure c s).stop_req = s.stop_req := rfl
@[simp] theorem recordFailure_err (c : Failure) (s : State) : (recordFailure c s).err = c.err := rfl
@[simp] theorem recordFailure_buf (c : Failure) (s : State) : (recordFailure c s).buf = s.buf := rfl
@[simp] theorem recordFailure_len (c : Failure) (s : State) : (recordFailure c s).len = s.len := rfl
@[simp] theorem recordFailure_epoch (c : Failure) (s : State) : (recordFailure c s).epoch = s.epoch := rfl
@[simp] theorem recordFailure_port (c : Failure) (s : State) : (recordFailure c s).port = s.port := rfl
@[simp] theorem recordFailure_trace (c : Failure) (s : State) : (recordFailure c s).trace = s.trace := rfl

/-! ## `setFailures` -/

@[simp] theorem setFailures_cfg (n : Nat) (s : State) : (setFailures n s).cfg = s.cfg := rfl
@[simp] theorem setFailures_pm1 (n : Nat) (s : State) : (setFailures n s).pm1 = s.pm1 := rfl
@[simp] theorem setFailures_pm2_5 (n : Nat) (s : State) : (setFailures n s).pm2_5 = s.pm2_5 := rfl
@[simp] theorem setFailures_pm10 (n : Nat) (s : State) : (setFailures n s).pm10 = s.pm10 := rfl
@[simp] theorem setFailures_sample_count (n : Nat) (s : State) : (setFailures n s).sample_count = s.sample_count := rfl
@[simp] theorem setFailures_consecutive_failures (n : Nat) (s : State) : (setFailures n s).consecutive_failures = BitVec.ofNat 8 n := rfl
@[simp] theorem setFailures_state (n : Nat) (s : State) : (setFailures n s).state = s.state := rfl
@[simp] theorem setFailures_healthy (n : Nat) (s : State) : (setFailures n s).healthy = s.healthy := rfl
@[simp] theorem setFailures_ovf (n : Nat) (s : State) : (setFailures n s).ovf = s.ovf := rfl
@[simp] theorem setFailures_link_err (n : Nat) (s : State) : (setFailures n s).link_err = s.link_err := rfl
@[simp] theorem setFailures_stop_req (n : Nat) (s : State) : (setFailures n s).stop_req = s.stop_req := rfl
@[simp] theorem setFailures_err (n : Nat) (s : State) : (setFailures n s).err = s.err := rfl
@[simp] theorem setFailures_buf (n : Nat) (s : State) : (setFailures n s).buf = s.buf := rfl
@[simp] theorem setFailures_len (n : Nat) (s : State) : (setFailures n s).len = s.len := rfl
@[simp] theorem setFailures_epoch (n : Nat) (s : State) : (setFailures n s).epoch = s.epoch := rfl
@[simp] theorem setFailures_port (n : Nat) (s : State) : (setFailures n s).port = s.port := rfl
@[simp] theorem setFailures_trace (n : Nat) (s : State) : (setFailures n s).trace = s.trace := rfl

/-! ## `escalate` -/

@[simp] theorem escalate_cfg (s : State) : (escalate s).cfg = s.cfg := rfl
@[simp] theorem escalate_pm1 (s : State) : (escalate s).pm1 = s.pm1 := rfl
@[simp] theorem escalate_pm2_5 (s : State) : (escalate s).pm2_5 = s.pm2_5 := rfl
@[simp] theorem escalate_pm10 (s : State) : (escalate s).pm10 = s.pm10 := rfl
@[simp] theorem escalate_sample_count (s : State) : (escalate s).sample_count = s.sample_count := rfl
@[simp] theorem escalate_consecutive_failures (s : State) : (escalate s).consecutive_failures = 0#8 := rfl
@[simp] theorem escalate_state (s : State) : (escalate s).state = s.state := rfl
@[simp] theorem escalate_healthy (s : State) : (escalate s).healthy = false := rfl
@[simp] theorem escalate_ovf (s : State) : (escalate s).ovf = s.ovf := rfl
@[simp] theorem escalate_link_err (s : State) : (escalate s).link_err = s.link_err := rfl
@[simp] theorem escalate_stop_req (s : State) : (escalate s).stop_req = s.stop_req := rfl
@[simp] theorem escalate_err (s : State) : (escalate s).err = s.err := rfl
@[simp] theorem escalate_buf (s : State) : (escalate s).buf = s.buf := rfl
@[simp] theorem escalate_len (s : State) : (escalate s).len = s.len := rfl
@[simp] theorem escalate_epoch (s : State) : (escalate s).epoch = s.epoch := rfl
@[simp] theorem escalate_port (s : State) : (escalate s).port = s.port := rfl
@[simp] theorem escalate_trace (s : State) : (escalate s).trace = s.trace := rfl

/-! ## `hardwareReset` -/

@[simp] theorem hardwareReset_cfg (s : State) : (hardwareReset s).cfg = s.cfg := rfl
@[simp] theorem hardwareReset_pm1 (s : State) : (hardwareReset s).pm1 = 0#16 := rfl
@[simp] theorem hardwareReset_pm2_5 (s : State) : (hardwareReset s).pm2_5 = 0#16 := rfl
@[simp] theorem hardwareReset_pm10 (s : State) : (hardwareReset s).pm10 = 0#16 := rfl
@[simp] theorem hardwareReset_sample_count (s : State) : (hardwareReset s).sample_count = 0#32 := rfl
@[simp] theorem hardwareReset_consecutive_failures (s : State) : (hardwareReset s).consecutive_failures = 0#8 := rfl
@[simp] theorem hardwareReset_state (s : State) : (hardwareReset s).state = .idle := rfl
@[simp] theorem hardwareReset_healthy (s : State) : (hardwareReset s).healthy = true := rfl
@[simp] theorem hardwareReset_ovf (s : State) : (hardwareReset s).ovf = false := rfl
@[simp] theorem hardwareReset_link_err (s : State) : (hardwareReset s).link_err = false := rfl
@[simp] theorem hardwareReset_stop_req (s : State) : (hardwareReset s).stop_req = false := rfl
@[simp] theorem hardwareReset_err (s : State) : (hardwareReset s).err = .none := rfl
@[simp] theorem hardwareReset_buf (s : State) : (hardwareReset s).buf = [] := rfl
@[simp] theorem hardwareReset_len (s : State) : (hardwareReset s).len = 0 := rfl
@[simp] theorem hardwareReset_epoch (s : State) : (hardwareReset s).epoch = s.epoch + 1 := rfl
@[simp] theorem hardwareReset_port (s : State) : (hardwareReset s).port = s.port := rfl
@[simp] theorem hardwareReset_trace (s : State) : (hardwareReset s).trace = s.trace := rfl

/-! ## The conditional updates leave most fields alone -/

@[simp] theorem raiseFailure_cfg (c : Failure) (s : State) : (raiseFailure c s).cfg = s.cfg := by
  unfold raiseFailure; split <;> rfl
@[simp] theorem raiseFailure_pm1 (c : Failure) (s : State) : (raiseFailure c s).pm1 = s.pm1 := by
  unfold raiseFailure; split <;> rfl
@[simp] theorem raiseFailure_pm2_5 (c : Failure) (s : State) : (raiseFailure c s).pm2_5 = s.pm2_5 := by
  unfold raiseFailure; split <;> rfl
@[simp] theorem raiseFailure_pm10 (c : Failure) (s : State) : (raiseFailure c s).pm10 = s.pm10 := by
  unfold raiseFailure; split <;> rfl
@[simp] theorem raiseFailure_sample_count (c : Failure) (s : State) : (raiseFailure c s).sample_count = s.sample_count := by
  unfold raiseFailure; split <;> rfl
@[simp] theorem raiseFailure_ovf (c : Failure) (s : State) : (raiseFailure c s).ovf = s.ovf := by
  unfold raiseFailure; split <;> rfl
@[simp] theorem raiseFailure_link_err (c : Failure) (s : State) : (raiseFailure c s).link_err = s.link_err := by
  unfold raiseFailure; split <;> rfl
@[simp] theorem raiseFailure_stop_req (c : Failure) (s : State) : (raiseFailure c s).stop_req = s.stop_req := by
  unfold raiseFailure; split <;> rfl
@[simp] theorem raiseFailure_buf (c : Failure) (s : State) : (raiseFailure c s).buf = s.buf := by
  unfold raiseFailure; split <;> rfl
@[simp] theorem raiseFailure_len (c : Failure) (s : State) : (raiseFailure c s).len = s.len := by
  unfold raiseFailure; split <;> rfl
@[simp] theorem raiseFailure_epoch (c : Failure) (s : State) : (raiseFailure c s).epoch = s.epoch := by
  unfold raiseFailure; split <;> rfl
@[simp] theorem raiseFailure_port (c : Failure) (s : State) : (raiseFailure c s).port = s.port := by
  unfold raiseFailure; split <;> rfl
@[simp] theorem raiseFailure_err (c : Failure) (s : State) : (raiseFailure c s).err = c.err := by
  unfold raiseFailure; split <;> rfl
@[simp] theorem raiseFailure_state (c : Failure) (s : State) : (raiseFailure c s).state = c.terminal := by
  unfold raiseFailure; split <;> rfl

@[simp] theorem leaveTerminal_cfg (s : State) : (leaveTerminal s).cfg = s.cfg := by
  unfold leaveTerminal; split <;> rfl
@[simp] theorem leaveTerminal_pm1 (s : State) : (leaveTerminal s).pm1 = s.pm1 := by
  unfold leaveTerminal; split <;> rfl
@[simp] theorem leaveTerminal_pm2_5 (s : State) : (leaveTerminal s).pm2_5 = s.pm2_5 := by
  unfold leaveTerminal; split <;> rfl
@[simp] theorem leaveTerminal_pm10 (s : State) : (leaveTerminal s).pm10 = s.pm10 := by
  unfold leaveTerminal; split <;> rfl
@[simp] theorem leaveTerminal_sample_count (s : State) : (leaveTerminal s).sample_count = s.sample_count := by
  unfold leaveTerminal; split <;> rfl
@[simp] theorem leaveTerminal_consecutive_failures (s : State) : (leaveTerminal s).consecutive_failures = s.consecutive_failures := by
  unfold leaveTerminal; split <;> rfl
@[simp] theorem leaveTerminal_healthy (s : State) : (leaveTerminal s).healthy = s.healthy := by
  unfold leaveTerminal; split <;> rfl
@[simp] theorem leaveTerminal_ovf (s : State) : (leaveTerminal s).ovf = s.ovf := by
  unfold leaveTerminal; split <;> rfl
@[simp] theorem leaveTerminal_link_err (s : State) : (leaveTerminal s).link_err = s.link_err := by
  unfold leaveTerminal; split <;> rfl
@[simp] theorem leaveTerminal_err (s : State) : (leaveTerminal s).err = s.err := by
  unfold leaveTerminal; split <;> rfl
@[simp] theorem leaveTerminal_buf (s : State) : (leaveTerminal s).buf = s.buf := by
  unfold leaveTerminal; split <;> rfl
@[simp] theorem leaveTerminal_len (s : State) : (leaveTerminal s).len = s.len := by
  unfold leaveTerminal; split <;> rfl
@[simp] theorem leaveTerminal_epoch (s : State) : (leaveTerminal s).epoch = s.epoch := by
  unfold leaveTerminal; split <;> rfl
@[simp] theorem leaveTerminal_port (s : State) : (leaveTerminal s).port = s.port := by
  unfold leaveTerminal; split <;> rfl
@[simp] theorem leaveTerminal_trace (s : State) : (leaveTerminal s).trace = s.trace := by
  unfold leaveTerminal; split <;> rfl
@[simp] theorem leaveTerminal_state (s : State) :
    (leaveTerminal s).state = if s.stop_req then .stopped else .idle := by
  unfold leaveTerminal; split <;> rfl
@[simp] theorem leaveTerminal_stop_req (s : State) : (leaveTerminal s).stop_req = false := by
  unfold leaveTerminal; split
  · rfl
  · rename_i h; simpa using h

@[simp] theorem requestStop_cfg (s : State) : (requestStop s).cfg = s.cfg := by
  unfold requestStop; split <;> rfl
@[simp] theorem requestStop_pm1 (s : State) : (requestStop s).pm1 = s.pm1 := by
  unfold requestStop; split <;> rfl
@[simp] theorem requestStop_pm2_5 (s : State) : (requestStop s).pm2_5 = s.pm2_5 := by
  unfold requestStop; split <;> rfl
@[simp] theorem requestStop_pm10 (s : State) : (requestStop s).pm10 = s.pm10 := by
  unfold requestStop; split <;> rfl
@[simp] theorem requestStop_sample_count (s : State) : (requestStop s).sample_count = s.sample_count := by
  unfold requestStop; split <;> rfl
@[simp] theorem requestStop_consecutive_failures (s : State) : (requestStop s).consecutive_failures = s.consecutive_failures := by
  unfold requestStop; split <;> rfl
@[simp] theorem requestStop_healthy (s : State) : (requestStop s).healthy = s.healthy := by
  unfold requestStop; split <;> rfl
@[simp] theorem requestStop_ovf (s : State) : (requestStop s).ovf = s.ovf := by
  unfold requestStop; split <;> rfl
@[simp] theorem requestStop_link_err (s : State) : (requestStop s).link_err = s.link_err := by
  unfold requestStop; split <;> rfl
@[simp] theorem requestStop_err (s : State) : (requestStop s).err = s.err := by
  unfold requestStop; split <;> rfl
@[simp] theorem requestStop_buf (s : State) : (requestStop s).buf = s.buf := by
  unfold requestStop; split <;> rfl
@[simp] theorem requestStop_len (s : State) : (requestStop s).len = s.len := by
  unfold requestStop; split <;> rfl
@[simp] theorem requestStop_epoch (s : State) : (requestStop s).epoch = s.epoch := by
  unfold requestStop; split <;> rfl
@[simp] theorem requestStop_port (s : State) : (requestStop s).port = s.port := by
  unfold requestStop; split <;> rfl
@[simp] theorem requestStop_trace (s : State) : (requestStop s).trace = s.trace := by
  unfold requestStop; split <;> rfl

/-- STOP in Idle, R158. -/
theorem requestStop_idle {s : State} (h : s.state = .idle) : requestStop s = { s with state := .stopped } := by
  simp [requestStop, h]

/-- STOP in Stopped, R158. -/
theorem requestStop_stopped {s : State} (h : s.state = .stopped) : requestStop s = s := by
  simp [requestStop, h]

/-- STOP in Reading or a terminal state, R158. -/
theorem requestStop_pending {s : State} (h₁ : s.state ≠ .idle) (h₂ : s.state ≠ .stopped) :
    requestStop s = { s with stop_req := true } := by
  unfold requestStop; split <;> first | rfl | contradiction

end Sys2Proof.Machine
end

