-- ==== Sys2Proof/Laws/Memory.lean ====
section
/-! SUPPORT. The FrameBuffer as memory: read after write, the canonical form, the window. -/

namespace Sys2Proof.Machine

/-! ## Cells -/

@[simp] theorem read_nil (a : Nat) : Memory.read [] a = none := rfl

@[simp] theorem read_write_same (m : Memory) (a : Nat) (b : Byte) : Memory.read (Memory.write m a b) a = some b := by
  induction m with
  | nil => simp [Memory.write, Memory.read]
  | cons c m ih =>
    obtain ⟨a', b'⟩ := c
    simp only [Memory.write]
    split
    · simp [Memory.read]
    · split <;> simp_all [Memory.read]

theorem read_write_other {a a' : Nat} (h : a' ≠ a) (m : Memory) (b : Byte) :
    Memory.read (Memory.write m a b) a' = Memory.read m a' := by
  induction m with
  | nil => simp [Memory.write, Memory.read, h]
  | cons c m ih =>
    obtain ⟨x, y⟩ := c
    simp only [Memory.write]
    split
    · simp [Memory.read, h]
    · split
      · simp_all [Memory.read]
      · simp only [Memory.read]; split
        · rfl
        · exact ih

/-- A cell of a written memory is the stored one or was there before. -/
theorem mem_write {m : Memory} {a : Nat} {b : Byte} {c : Host.Cell} (h : c ∈ Memory.write m a b) :
    c = (a, b) ∨ c ∈ m := by
  induction m with
  | nil => simpa [Memory.write] using h
  | cons d m ih =>
    obtain ⟨x, y⟩ := d
    simp only [Memory.write] at h
    split at h
    · simpa using h
    · split at h
      · simp at h; tauto
      · rcases List.mem_cons.mp h with h | h
        · simp [h]
        · rcases ih h with h | h <;> simp [h]

/-- Every store keeps the canonical form. -/
theorem write_wf {m : Memory} (h : Memory.wf m) (a : Nat) (b : Byte) : Memory.wf (Memory.write m a b) := by
  induction m with
  | nil => simp [Memory.wf, Memory.write]
  | cons d m ih =>
    obtain ⟨x, y⟩ := d
    simp only [Memory.wf, List.pairwise_cons] at h
    simp only [Memory.write]
    split
    · rename_i hlt
      simp only [Memory.wf, List.pairwise_cons, List.mem_cons]
      refine ⟨?_, h.1, h.2⟩
      rintro c (rfl | hc)
      · exact hlt
      · exact Nat.lt_trans hlt (h.1 c hc)
    · split
      · rename_i _ heq
        subst heq
        simpa [Memory.wf] using h
      · rename_i hlt hne
        simp only [Memory.wf, List.pairwise_cons]
        refine ⟨?_, ih h.2⟩
        intro c hc
        rcases mem_write hc with rfl | hc
        · simp only; omega
        · exact h.1 c hc

/-- In a canonical memory, a listed cell reads as its byte. -/
theorem read_of_mem {m : Memory} (h : Memory.wf m) {c : Host.Cell} (hc : c ∈ m) : Memory.read m c.1 = some c.2 := by
  induction m with
  | nil => simp at hc
  | cons d m ih =>
    simp only [Memory.wf, List.pairwise_cons] at h
    rcases List.mem_cons.mp hc with rfl | hc
    · simp [Memory.read]
    · have := h.1 c hc
      simp only [Memory.read]
      rw [if_neg (by omega)]
      exact ih h.2 hc

/-- A byte read from a memory is a listed cell's. -/
theorem mem_of_read {m : Memory} {a : Nat} {b : Byte} (h : Memory.read m a = some b) : (a, b) ∈ m := by
  induction m with
  | nil => simp at h
  | cons d m ih =>
    obtain ⟨x, y⟩ := d
    simp only [Memory.read] at h
    split at h
    · rename_i heq; simp_all
    · exact List.mem_cons_of_mem _ (ih h)

/-! ## Loads and the window -/

theorem memRead1_of_read {s : State} {a : Nat} {b : Byte} (h : Memory.read s.buf a = some b) : memRead1 s a = b := by
  simp [memRead1, h]

@[simp] theorem memRead1_emit (o : Out) (s : State) : memRead1 (emit o s) = memRead1 s := rfl
@[simp] theorem memRead1_bufClear (s : State) : memRead1 (bufClear s) = memRead1 s := rfl
@[simp] theorem memRead1_afterPush (full : Bool) (a : Nat) (s : State) :
    memRead1 (afterPush full a s) = memRead1 s := rfl

/-- A load depends on the cells and the epoch only. -/
theorem memRead1_congr {s t : State} (hb : t.buf = s.buf) (he : t.epoch = s.epoch) : memRead1 t = memRead1 s := by
  funext a; simp [memRead1, hb, he]

@[simp] theorem memRead1_setCell_same (a : Nat) (b : Byte) (s : State) : memRead1 (setCell a b s) a = b :=
  memRead1_of_read (read_write_same _ _ _)

theorem memRead1_setCell_other {a a' : Nat} (h : a' ≠ a) (b : Byte) (s : State) :
    memRead1 (setCell a b s) a' = memRead1 s a' := by
  simp [memRead1, read_write_other h]

@[simp] theorem window_length (s : State) : (window s).length = s.len := by simp [window]

theorem window_getElem? (s : State) {i : Nat} (h : i < s.len) : (window s)[i]? = some (memRead1 s i) := by
  simp [window, h]

/-- The window depends on the loads below `len` only. -/
theorem window_congr {s t : State} (hl : t.len = s.len) (hb : t.buf = s.buf) (he : t.epoch = s.epoch) :
    window t = window s := by
  simp [window, hl, memRead1_congr hb he]

theorem window_empty {s : State} (h : s.len = 0) : window s = [] := by simp [window, h]

/-- A byte stored at the write pointer, and the pointer moved past it, extends the window at its end (R102). -/
theorem window_append (full : Bool) (b : Byte) (s : State) :
    window (afterPush full s.len (setCell s.len b s)) = window s ++ [b] := by
  have h : ∀ a, memRead1 (afterPush full s.len (setCell s.len b s)) a = if a = s.len then b else memRead1 s a := by
    intro a
    by_cases ha : a = s.len
    · subst ha; simp
    · simpa [ha] using memRead1_setCell_other ha b s
  simp only [window, afterPush_len, List.range_succ, List.map_append, List.map_cons, List.map_nil]
  congr 1
  · apply List.map_congr_left
    intro a ha
    have := List.mem_range.mp ha
    rw [h, if_neg (by omega)]
  · rw [h, if_pos rfl]

/-- After an overflow the window is the byte that overflowed (R103). -/
theorem window_restart (full : Bool) (b : Byte) (s : State) :
    window (afterPush full 0 (setCell 0 b s)) = [b] := by
  simp [window]

end Sys2Proof.Machine
end

