-- ==== Sys2Proof/Laws/FrameSync.lean ====
section
/-! SUPPORT. The synchronizer: what a candidate is, what a frame of a window is, and how the candidates of a window grow
by one byte. -/

namespace Sys2Proof.Machine

/-- R110, as a proposition. -/
theorem cand_iff (w : List Byte) (i : Nat) :
    cand w i = true ↔ i + 24 ≤ w.length ∧ w[i]? = some 0x42#8 ∧ w[i + 1]? = some 0x4D#8 := by
  simp [cand, and_assoc]

theorem cand_bound {w : List Byte} {i : Nat} (h : cand w i = true) : i + 24 ≤ w.length := ((cand_iff w i).mp h).1

/-- The candidates are the offsets of R110. -/
theorem mem_candidates (w : List Byte) (i : Nat) : i ∈ candidates w ↔ cand w i = true := by
  simp only [candidates, List.mem_filter, List.mem_reverse, List.mem_range]
  constructor
  · exact fun h => h.2
  · intro h
    have := cand_bound h
    exact ⟨by simp only [Config.FRAME_LEN]; omega, h⟩

/-- The candidates come in descending order (R111). -/
theorem candidates_sorted (w : List Byte) : (candidates w).Pairwise (fun i j => j < i) := by
  unfold candidates
  apply List.Pairwise.filter
  rw [List.pairwise_reverse]
  exact List.pairwise_lt_range

theorem candSeen_iff (w : List Byte) : candSeen w = true ↔ candidates w ≠ [] := by
  simp [candSeen]

/-! ## Frames -/

theorem ofBytes_eq_some {l : List Byte} {f : RawFrame} : RawFrame.ofBytes l = some f ↔ l = f.bytes := by
  unfold RawFrame.ofBytes
  split
  · rename_i h
    constructor
    · intro e; injection e with e; rw [← e]
    · rintro rfl; rfl
  · rename_i h
    constructor
    · simp
    · rintro rfl; exact absurd f.size h

/-- R113: the frame at `i` is the 24 bytes from `i`. -/
theorem frame_eq_some {w : List Byte} {i : Nat} {f : RawFrame} :
    frame w i = some f ↔ (w.drop i).take 24 = f.bytes := ofBytes_eq_some

theorem frame_isSome {w : List Byte} {i : Nat} (h : i + 24 ≤ w.length) : ∃ f, frame w i = some f := by
  have hl : ((w.drop i).take Config.FRAME_LEN).length = Config.FRAME_LEN := by
    simp only [List.length_take, List.length_drop, Config.FRAME_LEN]; omega
  exact ⟨⟨_, hl⟩, frame_eq_some.mpr rfl⟩

theorem frame_bound {w : List Byte} {i : Nat} {f : RawFrame} (h : frame w i = some f) : i + 24 ≤ w.length := by
  have h' := congrArg List.length (frame_eq_some.mp h)
  rw [f.size] at h'
  simp only [List.length_take, List.length_drop, Config.FRAME_LEN] at h'
  omega

/-- Frame byte `k` of the candidate at `i` is `w[i + k]` (R53). -/
theorem frame_byte {w : List Byte} {i : Nat} {f : RawFrame} (h : frame w i = some f) (k : Fin 24) :
    w[i + k.val]? = some (f.byte k) := by
  have h' := frame_eq_some.mp h
  have hk : f.bytes[k.val]? = some (f.byte k) := by
    unfold RawFrame.byte; exact List.getElem?_eq_getElem _
  rw [← hk, ← h', List.getElem?_take, if_pos k.isLt, List.getElem?_drop]

/-- The candidate at `i` is tried with its frame (R116). -/
theorem tryCandidate_eq_some {w : List Byte} {i : Nat} {p : Nat × RawFrame} :
    tryCandidate w i = some p ↔ p.1 = i ∧ frame w i = some p.2 ∧ validate p.2 = true := by
  obtain ⟨j, g⟩ := p
  unfold tryCandidate
  rcases frame w i with _ | f
  · simp
  · by_cases hv : validate f = true
    · simp only [hv, if_true, Option.some.injEq, Prod.mk.injEq]
      constructor
      · rintro ⟨rfl, rfl⟩; exact ⟨rfl, rfl, hv⟩
      · rintro ⟨rfl, rfl, -⟩; exact ⟨rfl, rfl⟩
    · simp only [hv]
      constructor
      · simp
      · rintro ⟨-, e, hg⟩; injection e with e; subst e; exact absurd hg hv

theorem tryCandidate_isSome (w : List Byte) (i : Nat) :
    (tryCandidate w i).isSome = (frame w i).any validate := by
  unfold tryCandidate
  rcases frame w i with _ | f
  · rfl
  · by_cases hv : validate f = true <;> simp [hv]

/-! ## One more byte at the end of the window -/

theorem cand_snoc {w : List Byte} (b : Byte) {i : Nat} (h : i + 24 ≤ w.length) : cand (w ++ [b]) i = cand w i := by
  rw [Bool.eq_iff_iff, cand_iff, cand_iff, List.length_append, List.getElem?_append_left (by omega),
    List.getElem?_append_left (by omega)]
  simp only [List.length_singleton]
  constructor <;> (rintro ⟨-, h'⟩; exact ⟨by omega, h'⟩)

theorem frame_snoc {w : List Byte} (b : Byte) {i : Nat} (h : i + 24 ≤ w.length) : frame (w ++ [b]) i = frame w i := by
  unfold frame
  rw [List.drop_append_of_le_length (by omega),
    List.take_append_of_le_length (by simp only [List.length_drop, Config.FRAME_LEN]; omega)]

theorem tryCandidate_snoc {w : List Byte} (b : Byte) {i : Nat} (h : i + 24 ≤ w.length) :
    tryCandidate (w ++ [b]) i = tryCandidate w i := by
  unfold tryCandidate; rw [frame_snoc b h]

/-- The only new candidate a byte can bring is the 24-byte frame that ends at it. -/
theorem candidates_snoc (w : List Byte) (b : Byte) :
    candidates (w ++ [b]) =
      (if cand (w ++ [b]) (w.length + 1 - 24) then [w.length + 1 - 24] else []) ++ candidates w := by
  by_cases hl : w.length < 23
  · have h1 : candidates (w ++ [b]) = [] := by
      simp only [candidates, List.length_append, List.length_singleton, Config.FRAME_LEN]
      rw [show w.length + 1 + 1 - 24 = 0 by omega]; rfl
    have h2 : candidates w = [] := by
      simp only [candidates, Config.FRAME_LEN]
      rw [show w.length + 1 - 24 = 0 by omega]; rfl
    have h3 : cand (w ++ [b]) (w.length + 1 - 24) = false := by
      rw [Bool.eq_false_iff]; intro h
      have := cand_bound h
      simp only [List.length_append, List.length_singleton] at this
      omega
    rw [h1, h2, h3]; rfl
  · simp only [candidates, List.length_append, List.length_singleton, Config.FRAME_LEN]
    rw [show w.length + 1 + 1 - 24 = (w.length + 1 - 24) + 1 by omega, List.range_succ, List.reverse_append,
      List.reverse_singleton, List.filter_append]
    congr 1
    · simp [List.filter_cons]
    · apply List.filter_congr
      intro i hi
      rw [List.mem_reverse, List.mem_range] at hi
      exact cand_snoc b (by omega)

/-- And so the selected frame is that one, if it validates, or the one selected before. -/
theorem selected_snoc (w : List Byte) (b : Byte) :
    selected (w ++ [b]) =
      if cand (w ++ [b]) (w.length + 1 - 24) then
        (tryCandidate (w ++ [b]) (w.length + 1 - 24)).or (selected w)
      else selected w := by
  have hcongr : List.findSome? (tryCandidate (w ++ [b])) (candidates w) = selected w := by
    unfold selected
    have : ∀ l : List Nat, (∀ i ∈ l, i + 24 ≤ w.length) →
        List.findSome? (tryCandidate (w ++ [b])) l = List.findSome? (tryCandidate w) l := by
      intro l hl
      induction l with
      | nil => rfl
      | cons i l ih =>
        simp only [List.findSome?_cons]
        rw [tryCandidate_snoc b (hl i (by simp)), ih fun j hj => hl j (by simp [hj])]
    exact this _ fun i hi => cand_bound ((mem_candidates w i).mp hi)
  unfold selected at hcongr ⊢
  rw [candidates_snoc]
  split
  · rw [List.singleton_append, List.findSome?_cons, hcongr]
    rcases tryCandidate (w ++ [b]) (w.length + 1 - 24) with _ | p <;> rfl
  · rw [List.nil_append, hcongr]

end Sys2Proof.Machine
end

