-- ==== Sys2Proof/Laws/Checksum.lean ====
section
/-! SUPPORT. The checksum as exact arithmetic (R121, R124 (a)), and the bytes of a frame. -/

namespace Sys2Proof.Machine

@[simp] theorem be16_toNat (hi lo : Byte) : (be16 hi lo).toNat = hi.toNat * 256 + lo.toNat := by
  have := hi.isLt
  have := lo.isLt
  simp only [be16, BitVec.toNat_ofNat]
  omega

/-- A value is assembled from its two halves (R13). -/
theorem be16_hi_lo (v : U16) : be16 (hiByte v) (loByte v) = v := by
  apply BitVec.eq_of_toNat_eq
  have := v.isLt
  simp only [be16_toNat, hiByte, loByte, BitVec.extractLsb'_toNat, Nat.shiftRight_zero]
  rw [Nat.shiftRight_eq_div_pow]
  omega

theorem be16_injective {a b c d : Byte} (h : be16 a b = be16 c d) : a = c ∧ b = d := by
  have h' := congrArg BitVec.toNat h
  rw [be16_toNat, be16_toNat] at h'
  have := a.isLt; have := b.isLt; have := c.isLt; have := d.isLt
  constructor <;> apply BitVec.eq_of_toNat_eq <;> omega

/-- The accumulator over any list of bytes, as a sum modulo 65536. -/
theorem foldl_accumulate (l : List Byte) (acc : U16) :
    (l.foldl accumulate acc).toNat = (acc.toNat + (l.map BitVec.toNat).sum) % 65536 := by
  induction l generalizing acc with
  | nil => have := acc.isLt; simp; omega
  | cons b l ih =>
    rw [List.foldl_cons, ih]
    have := b.isLt
    simp only [accumulate, BitVec.toNat_add, BitVec.toNat_setWidth, List.map_cons, List.sum_cons]
    omega

theorem sum_bytes_le (l : List Byte) : (l.map BitVec.toNat).sum ≤ 255 * l.length := by
  induction l with
  | nil => simp
  | cons b l ih =>
    have := b.isLt
    simp only [List.map_cons, List.sum_cons, List.length_cons]
    omega

/-- The sum of a frame in unbounded naturals: the carry is never discarded (R124 (a)). -/
theorem sum_toNat (f : RawFrame) : (sum f).toNat = ((f.bytes.take 22).map BitVec.toNat).sum := by
  unfold sum
  rw [foldl_accumulate]
  have h := sum_bytes_le (f.bytes.take Config.SUM_LEN)
  have hs := f.size
  simp only [List.length_take, Config.SUM_LEN, Config.FRAME_LEN] at h hs ⊢
  rw [Nat.mod_eq_of_lt] <;> simp only [BitVec.toNat_ofNat] <;> omega

/-- A frame is its 24 bytes. -/
theorem RawFrame.ext_bytes {f g : RawFrame} (h : ∀ k : Fin 24, f.byte k = g.byte k) : f = g := by
  have hb : f.bytes = g.bytes := by
    apply List.ext_getElem
    · rw [f.size, g.size]
    · intro k h1 h2
      exact h ⟨k, by rw [f.size] at h1; exact h1⟩
  cases f; cases g; simp_all

theorem RawFrame.byte_set_same (f : RawFrame) (k : Fin 24) (b : Byte) : (f.set k b).byte k = b := by
  simp [RawFrame.byte, RawFrame.set]

theorem RawFrame.byte_set_other (f : RawFrame) {k j : Fin 24} (h : j ≠ k) (b : Byte) :
    (f.set k b).byte j = f.byte j := by
  have : k.val ≠ j.val := fun e => h (Fin.ext e.symm)
  simp [RawFrame.byte, RawFrame.set, this]

/-- The sum of a frame, byte by byte (R120). -/
theorem sum_bytes_eq (f : RawFrame) :
    ((f.bytes.take 22).map BitVec.toNat).sum = ∑ k : Fin 22, (f.byte (k.castLE (by decide))).toNat := by
  have h : (f.bytes.take 22).map BitVec.toNat =
      List.ofFn fun k : Fin 22 => (f.byte (k.castLE (by decide))).toNat := by
    apply List.ext_getElem
    · have := f.size
      simp only [List.length_map, List.length_take, List.length_ofFn, Config.FRAME_LEN] at this ⊢
      omega
    · intro k h1 h2
      rw [List.getElem_map, List.getElem_take, List.getElem_ofFn]
      rfl
  rw [h, List.sum_ofFn]

/-- The sum does not see the two checksum bytes (R120). -/
theorem sum_set_stored (f : RawFrame) {k : Fin 24} (h : 22 ≤ k.val) (b : Byte) : sum (f.set k b) = sum f := by
  have ht : (f.set k b).bytes.take 22 = f.bytes.take 22 := List.take_set_of_le h
  simp only [sum, Config.SUM_LEN, ht]

theorem headerMatches_iff (f : RawFrame) : headerMatches f = true ↔ f.byte 0 = 0x42#8 ∧ f.byte 1 = 0x4D#8 := by
  simp [headerMatches]

theorem checksumMatches_iff (f : RawFrame) : checksumMatches f = true ↔ sum f = f.stored := by
  simp [checksumMatches]

/-- The validator's three conjuncts (R122, and R126 from right to left). -/
theorem validate_iff (f : RawFrame) :
    validate f = true ↔ f.byte 0 = 0x42#8 ∧ f.byte 1 = 0x4D#8 ∧ sum f = f.stored := by
  rw [validate, Bool.and_eq_true, headerMatches_iff, checksumMatches_iff, and_assoc]

@[simp] theorem sum_withChecksum (f : RawFrame) : sum (withChecksum f) = sum f := by
  rw [withChecksum, sum_set_stored _ (by decide), sum_set_stored _ (by decide)]

theorem withChecksum_byte (f : RawFrame) {k : Fin 24} (h : k.val < 22) : (withChecksum f).byte k = f.byte k := by
  rw [withChecksum, RawFrame.byte_set_other _ (Fin.ne_of_lt (by show k.val < 23; omega)),
    RawFrame.byte_set_other _ (Fin.ne_of_lt (by show k.val < 22; omega))]

@[simp] theorem checksumMatches_withChecksum (f : RawFrame) : checksumMatches (withChecksum f) = true := by
  rw [checksumMatches_iff, sum_withChecksum, RawFrame.stored, withChecksum, RawFrame.byte_set_same,
    RawFrame.byte_set_other _ (by decide), RawFrame.byte_set_same, be16_hi_lo]

end Sys2Proof.Machine
end

