-- ==== Sys2Proof/Laws/Exec.lean ====
section
/-! SUPPORT. What a command can do, said once: the relation `Does`, and that `exec` answers a next state exactly by it. -/

namespace Sys2Proof.Machine

/-! ## The legality table and the shared operations -/

theorem guarded_of_exec {i : Instr} {s : State} (h : legality i s.state = .exec)
    (e : Host.Outcome State Fault Refusal) : guarded i s e = e := by
  simp [guarded, h]

theorem guarded_of_reject {i : Instr} {s : State} (h : legality i s.state = .reject)
    (e : Host.Outcome State Fault Refusal) : guarded i s e = .next (emit Out.rejected s) := by
  simp [guarded, h]

theorem guarded_of_ignore {i : Instr} {s : State} (h : legality i s.state = .ignore)
    (e : Host.Outcome State Fault Refusal) : guarded i s e = .next (emit Out.quiet s) := by
  simp [guarded, h]

/-- A rejected command changes nothing but the trace (R78). -/
theorem exec_of_reject {i : Instr} {s : State} (h : legality i s.state = .reject) :
    exec i s = .next (emit Out.rejected s) := by
  cases i <;> first | exact guarded_of_reject h _ | rfl

/-- An ignored command changes nothing but the trace (R78, R181). -/
theorem exec_of_ignore {i : Instr} {s : State} (h : legality i s.state = .ignore) :
    exec i s = .next (emit Out.quiet s) := by
  cases i <;> first | exact guarded_of_ignore h _ | (simp [legality] at h)

theorem memWrite_ok {a : Nat} {b : Byte} {s : State} (h : a < s.cfg.cap) : memWrite a b s = .ok (setCell a b s) := by
  simp [memWrite, h]

theorem memWrite_eq_ok {a : Nat} {b : Byte} {s t : State} (h : memWrite a b s = .ok t) :
    a < s.cfg.cap ∧ t = setCell a b s := by
  unfold memWrite at h
  split at h
  · exact ⟨‹_›, by injection h with h; exact h.symm⟩
  · simp at h

theorem readWindow_ok {s : State} (h : s.len ≤ s.cfg.cap) : readWindow s = .ok (window s) := by
  simp [readWindow, h]

@[simp] theorem bufFull_iff (s : State) : bufFull s = true ↔ s.len = s.cfg.cap := by simp [bufFull]

theorem pushAddress_full {s : State} (h : s.len = s.cfg.cap) : pushAddress s = 0 := by
  simp [pushAddress, bufFull, h]

theorem pushAddress_room {s : State} (h : s.len ≠ s.cfg.cap) : pushAddress s = s.len := by
  simp [pushAddress, bufFull, h]

/-- The counter law in naturals, R141. -/
theorem countSample_toNat (n : U32) : (countSample n).toNat = min (n.toNat + 1) 0xFFFFFFFF := by
  unfold countSample
  rw [BitVec.toNat_ofNat, Nat.mod_eq_of_lt]
  exact Nat.lt_of_le_of_lt (Nat.min_le_right _ _) (by decide)

/-! ## Outcomes -/

/-- Lines 4 to 6 of R194, one at a time. -/
theorem classify_of_selected {w : List Byte} {i : Nat} {f : RawFrame} (h : selected w = some (i, f)) :
    classify w = .ok i f := by
  unfold classify; rw [h]

theorem classify_of_candidate {w : List Byte} (h : selected w = none) (hc : candidates w ≠ []) :
    classify w = .failed .checksumMismatch := by
  unfold classify; rw [h]; exact if_pos ((candSeen_iff w).mpr hc)

theorem classify_of_none {w : List Byte} (h : selected w = none) (hc : candidates w = []) :
    classify w = .failed .noValidFrameFound := by
  unfold classify; rw [h]; exact if_neg (fun e => (candSeen_iff w).mp e hc)

/-- No frame is selected when none of the candidates validates. -/
theorem selected_eq_none {w : List Byte} :
    selected w = none ↔ ∀ i, cand w i = true → (frame w i).any validate = false := by
  unfold selected
  rw [List.findSome?_eq_none_iff]
  simp only [mem_candidates]
  constructor
  · intro h i hi; rw [← tryCandidate_isSome, h i hi]; rfl
  · intro h i hi; have := h i hi; rw [← tryCandidate_isSome] at this; simpa using this

/-- What `classify` says, R194 lines 4 to 6. -/
theorem classify_eq_ok {w : List Byte} {i : Nat} {f : RawFrame} (h : classify w = .ok i f) :
    selected w = some (i, f) := by
  unfold classify at h
  split at h
  · simp_all
  · split at h <;> simp at h

/-- The selected candidate is one, and its frame is the 24 bytes at it, and validates (R116). -/
theorem selected_spec {w : List Byte} {i : Nat} {f : RawFrame} (h : selected w = some (i, f)) :
    i ∈ candidates w ∧ frame w i = some f ∧ validate f = true := by
  obtain ⟨l₁, j, l₂, hl, hj, -⟩ := List.findSome?_eq_some_iff.mp h
  unfold tryCandidate at hj
  split at hj
  · rename_i g hg
    split at hj
    · simp only [Option.some.injEq, Prod.mk.injEq] at hj
      obtain ⟨rfl, rfl⟩ := hj
      exact ⟨by rw [hl]; simp, hg, ‹_›⟩
    · simp at hj
  · simp at hj

/-- An outcome `Ok` is a selected frame, with neither flag set and a window that is not empty (R194). -/
theorem outcome_eq_ok {s : State} {i : Nat} {f : RawFrame} (h : outcome s = .ok (.ok i f)) :
    s.ovf = false ∧ s.link_err = false ∧ s.len ≠ 0 ∧ s.len ≤ s.cfg.cap ∧ selected (window s) = some (i, f) := by
  unfold outcome at h
  split at h
  · simp at h
  split at h
  · simp at h
  split at h
  · simp at h
  unfold readWindow at h
  split at h
  · rename_i heq
    split at heq
    · injection heq with heq
      injection h with h
      subst heq
      refine ⟨by simpa using ‹¬ s.ovf = true›, by simpa using ‹¬ s.link_err = true›, ‹_›, ‹_›, classify_eq_ok h⟩
    · simp at heq
  · simp at h

/-- With no flag set and a window that is not empty, the outcome is the window's (R194 lines 4 to 6). -/
theorem outcome_eq_classify {s : State} (ho : s.ovf = false) (hl : s.link_err = false) (hn : s.len ≠ 0)
    (hc : s.len ≤ s.cfg.cap) : outcome s = .ok (classify (window s)) := by
  unfold outcome
  rw [if_neg (by simp [ho]), if_neg (by simp [hl]), if_neg hn, readWindow_ok hc]

/-- With the write pointer inside the buffer SCAN always has an outcome (R52). -/
theorem outcome_total {s : State} (h : s.len ≤ s.cfg.cap) : ∃ o, outcome s = .ok o := by
  unfold outcome
  rw [readWindow_ok h]
  split
  · exact ⟨_, rfl⟩
  split
  · exact ⟨_, rfl⟩
  split <;> exact ⟨_, rfl⟩

/-! ## What a command can do -/

/-- `Does i s o u`: command `i` in state `s` answers the record `o` and, but for the trace, leaves the state `u`. -/
inductive Does : Instr → State → Out → State → Prop where
  | rejected {i s} (h : legality i s.state = .reject) : Does i s Out.rejected s
  | ignored {i s} (h : legality i s.state = .ignore) : Does i s Out.quiet s
  | nop {s} : Does .nop s Out.quiet s
  | start {s} (h : s.state = .idle) : Does .start s { flush_req := true } (enterReading s)
  | push {s b} (h : s.state = .reading) (ha : pushAddress s < s.cfg.cap) :
      Does (.push b) s { buf_overflow := bufFull s }
        (afterPush (bufFull s) (pushAddress s) (setCell (pushAddress s) b s))
  | scanOk {s i f} (h : s.state = .reading) (ho : outcome s = .ok (.ok i f)) :
      Does .scan s Out.quiet (recordSuccess f s)
  | scanFailed {s c} (h : s.state = .reading) (ho : outcome s = .ok (.failed c)) (he : escalates s = false) :
      Does .scan s Out.quiet (setFailures (failuresPlusOne s) (recordFailure c s))
  | scanEscalated {s c} (h : s.state = .reading) (ho : outcome s = .ok (.failed c)) (he : escalates s = true) :
      Does .scan s { chan_reset_req := true } (escalate (recordFailure c s))
  | next {s} (h : s.state.isTerminal = true) : Does .next s Out.quiet (leaveTerminal s)
  | stop {s} : Does .stop s Out.quiet (requestStop s)
  | overflowEvent {i s} (hi : i = .evFifoOvf ∨ i = .evBufFull) (h : s.state = .reading) :
      Does i s { queue_reset_req := true } (markLinkError (bufClear s))
  | lineEvent {i s} (hi : i = .evBreak ∨ i = .evParity ∨ i = .evFrame) (h : s.state = .reading) :
      Does i s Out.quiet (markLinkError s)
  | readLatest {s} : Does .readLatest s (Out.response (latestView s)) s
  | readCount {s} : Does .readCount s (Out.response (countView s)) s
  | readHealthy {s} : Does .readHealthy s (Out.response (healthyView s)) s
  | readStatus {s} : Does .readStatus s (Out.response (status s)) s

theorem execOnlyIf_cases (b : Bool) :
    (execOnlyIf b = .exec ∧ b = true) ∨ (execOnlyIf b = .reject ∧ b = false) := by
  cases b <;> simp [execOnlyIf]

theorem eventLegality_cases (st : Fsm) :
    (eventLegality st = .exec ∧ st = .reading) ∨ (eventLegality st = .ignore ∧ st ≠ .reading) := by
  unfold eventLegality; split <;> simp_all

/-- Reading an outcome of `guarded` back: a next state comes from the reject, the ignore or the effect. -/
theorem guarded_eq_next {i : Instr} {s t : State} {e : Host.Outcome State Fault Refusal}
    (h : guarded i s e = .next t) :
    (legality i s.state = .reject ∧ t = emit Out.rejected s) ∨
    (legality i s.state = .ignore ∧ t = emit Out.quiet s) ∨ (legality i s.state = .exec ∧ e = .next t) := by
  unfold guarded at h
  split at h
  · exact .inr (.inr ⟨‹_›, h⟩)
  · injection h with h; exact .inl ⟨‹_›, h.symm⟩
  · injection h with h; exact .inr (.inl ⟨‹_›, h.symm⟩)

theorem legality_execOnlyIf {b : Bool} (h : execOnlyIf b = .exec) : b = true := by
  cases b <;> simp_all [execOnlyIf]

theorem legality_event {st : Fsm} (h : eventLegality st = .exec) : st = .reading := by
  unfold eventLegality at h; split at h <;> simp_all

/-- Every next state of a command is one that `Does` gives. -/
theorem exec_eq_next {i : Instr} {s t : State} (h : exec i s = .next t) :
    ∃ o u, Does i s o u ∧ t = emit o u := by
  have key : ∀ {e}, guarded i s e = .next t → (legality i s.state = .exec → e = .next t →
      ∃ o u, Does i s o u ∧ t = emit o u) → ∃ o u, Does i s o u ∧ t = emit o u := by
    intro e hg hk
    rcases guarded_eq_next hg with ⟨hl, ht⟩ | ⟨hl, ht⟩ | ⟨hl, he⟩
    · exact ⟨_, _, .rejected hl, ht⟩
    · exact ⟨_, _, .ignored hl, ht⟩
    · exact hk hl he
  cases i with
  | nop => exact key h fun _ he => ⟨_, _, .nop, by injection he with he; exact he.symm⟩
  | start =>
    exact key h fun hl he =>
      ⟨_, _, .start (by simpa using legality_execOnlyIf hl), by injection he with he; exact he.symm⟩
  | push b =>
    refine key h fun hl he => ?_
    have hr : s.state = .reading := by simpa using legality_execOnlyIf hl
    split at he
    · rename_i u hu
      obtain ⟨ha, rfl⟩ := memWrite_eq_ok hu
      exact ⟨_, _, .push hr ha, by injection he with he; exact he.symm⟩
    · simp at he
  | scan =>
    refine key h fun hl he => ?_
    have hr : s.state = .reading := by simpa using legality_execOnlyIf hl
    split at he
    · exact ⟨_, _, .scanOk hr ‹_›, by injection he with he; exact he.symm⟩
    · injection he with he
      unfold raiseFailure at he
      split at he
      · exact ⟨_, _, .scanEscalated hr ‹_› ‹_›, he.symm⟩
      · exact ⟨_, _, .scanFailed hr ‹_› (by simpa using ‹¬ escalates s = true›), he.symm⟩
    · simp at he
  | next =>
    exact key h fun hl he => ⟨_, _, .next (legality_execOnlyIf hl), by injection he with he; exact he.symm⟩
  | stop => exact key h fun _ he => ⟨_, _, .stop, by injection he with he; exact he.symm⟩
  | evFifoOvf =>
    exact key h fun hl he =>
      ⟨_, _, .overflowEvent (by simp) (legality_event hl), by injection he with he; exact he.symm⟩
  | evBufFull =>
    exact key h fun hl he =>
      ⟨_, _, .overflowEvent (by simp) (legality_event hl), by injection he with he; exact he.symm⟩
  | evBreak =>
    exact key h fun hl he =>
      ⟨_, _, .lineEvent (by simp) (legality_event hl), by injection he with he; exact he.symm⟩
  | evParity =>
    exact key h fun hl he =>
      ⟨_, _, .lineEvent (by simp) (legality_event hl), by injection he with he; exact he.symm⟩
  | evFrame =>
    exact key h fun hl he =>
      ⟨_, _, .lineEvent (by simp) (legality_event hl), by injection he with he; exact he.symm⟩
  | readLatest => exact key h fun _ he => ⟨_, _, .readLatest, by injection he with he; exact he.symm⟩
  | readCount => exact key h fun _ he => ⟨_, _, .readCount, by injection he with he; exact he.symm⟩
  | readHealthy => exact key h fun _ he => ⟨_, _, .readHealthy, by injection he with he; exact he.symm⟩
  | readStatus => exact key h fun _ he => ⟨_, _, .readStatus, by injection he with he; exact he.symm⟩
  | reservedF => exact ⟨_, _, .rejected rfl, by
      have h' : Host.Outcome.next (emit Out.rejected s) = .next t := h
      injection h' with h'; exact h'.symm⟩

/-- And every one of them is answered. -/
theorem exec_of_does {i : Instr} {s : State} {o : Out} {u : State} (h : Does i s o u) :
    exec i s = .next (emit o u) := by
  cases h with
  | rejected h => exact exec_of_reject h
  | ignored h => exact exec_of_ignore h
  | nop => rfl
  | start h => simp [exec, execStart, guarded, legality, execOnlyIf, h]
  | push h ha => simp [exec, execPush, guarded, legality, execOnlyIf, h, memWrite_ok ha]
  | scanOk h ho => simp [exec, execScan, guarded, legality, execOnlyIf, h, ho]
  | scanFailed h ho he => simp [exec, execScan, guarded, legality, execOnlyIf, h, ho, raiseFailure, he]
  | scanEscalated h ho he => simp [exec, execScan, guarded, legality, execOnlyIf, h, ho, raiseFailure, he]
  | next h => simp [exec, execNext, guarded, legality, execOnlyIf, h]
  | stop => rfl
  | overflowEvent hi h =>
    rcases hi with rfl | rfl <;>
      simp [exec, execEvFifoOvf, execEvBufFull, guarded, legality, eventLegality, h, overflowEvent]
  | lineEvent hi h =>
    rcases hi with rfl | rfl | rfl <;>
      simp [exec, execEvBreak, execEvParity, execEvFrame, guarded, legality, eventLegality, h, lineEvent]
  | readLatest => rfl
  | readCount => rfl
  | readHealthy => rfl
  | readStatus => rfl

/-- A command does something whenever the write pointer is inside a buffer that exists (R52, R193). -/
theorem does_total {i : Instr} {s : State} (hc : 0 < s.cfg.cap) (hl : s.len ≤ s.cfg.cap) : ∃ o u, Does i s o u := by
  rcases hleg : legality i s.state with _ | _ | _
  · cases i with
    | nop => exact ⟨_, _, .nop⟩
    | start => exact ⟨_, _, .start (by simpa using legality_execOnlyIf hleg)⟩
    | push b =>
      refine ⟨_, _, .push (by simpa using legality_execOnlyIf hleg) ?_⟩
      by_cases hf : s.len = s.cfg.cap
      · rw [pushAddress_full hf]; exact hc
      · rw [pushAddress_room hf]; omega
    | scan =>
      have hr : s.state = .reading := by simpa using legality_execOnlyIf hleg
      obtain ⟨o, ho⟩ := outcome_total hl
      cases o with
      | ok i f => exact ⟨_, _, .scanOk hr ho⟩
      | failed c =>
        rcases he : escalates s
        · exact ⟨_, _, .scanFailed hr ho he⟩
        · exact ⟨_, _, .scanEscalated hr ho he⟩
    | next => exact ⟨_, _, .next (legality_execOnlyIf hleg)⟩
    | stop => exact ⟨_, _, .stop⟩
    | evFifoOvf => exact ⟨_, _, .overflowEvent (by simp) (legality_event hleg)⟩
    | evBufFull => exact ⟨_, _, .overflowEvent (by simp) (legality_event hleg)⟩
    | evBreak => exact ⟨_, _, .lineEvent (by simp) (legality_event hleg)⟩
    | evParity => exact ⟨_, _, .lineEvent (by simp) (legality_event hleg)⟩
    | evFrame => exact ⟨_, _, .lineEvent (by simp) (legality_event hleg)⟩
    | readLatest => exact ⟨_, _, .readLatest⟩
    | readCount => exact ⟨_, _, .readCount⟩
    | readHealthy => exact ⟨_, _, .readHealthy⟩
    | readStatus => exact ⟨_, _, .readStatus⟩
    | reservedF => simp [legality] at hleg
  · exact ⟨_, _, .rejected hleg⟩
  · exact ⟨_, _, .ignored hleg⟩

/-! ## A step -/

/-- Every next state of a step: the block waits, runs a command, or is reset (R7, R220). -/
theorem step_eq_next {s t : State} (h : step s = .next t) :
    (s.port = [] ∧ t = s) ∨
    (∃ w rest o u, s.port = .command w :: rest ∧ Does (decode w) { s with port := rest } o u ∧ t = emit o u) ∨
    (∃ a rest, s.port = .hardReset a :: rest ∧ t = hardwareReset { s with port := rest }) := by
  unfold step takePort at h
  rcases hp : s.port with _ | ⟨w | a, rest⟩
  · simp only [hp] at h; injection h with h; exact .inl ⟨rfl, h.symm⟩
  · simp only [hp] at h
    obtain ⟨o, u, hd, rfl⟩ := exec_eq_next h
    exact .inr (.inl ⟨w, rest, o, u, rfl, hd, rfl⟩)
  · simp only [hp] at h; injection h with h
    exact .inr (.inr ⟨a, rest, rfl, h.symm⟩)

theorem step_empty {s : State} (h : s.port = []) : step s = .next s := by simp [step, takePort, h]

theorem step_command {s : State} {w : CmdWord} {rest : List PortItem} (h : s.port = .command w :: rest) :
    step s = exec (decode w) { s with port := rest } := by simp [step, takePort, h]

theorem step_hardReset {s : State} {a : Option CmdWord} {rest : List PortItem} (h : s.port = .hardReset a :: rest) :
    step s = .next (hardwareReset { s with port := rest }) := by simp [step, takePort, h]

/-! ## Command sequences -/

theorem runCommands_cons {i : Instr} {s t : State} (h : exec i s = .next t) (is : List Instr) :
    runCommands (i :: is) s = runCommands is t := by simp [runCommands, h]

theorem runCommands_cons_eq_next {i : Instr} {is : List Instr} {s t : State}
    (h : runCommands (i :: is) s = .next t) : ∃ u, exec i s = .next u ∧ runCommands is u = .next t := by
  unfold runCommands at h
  split at h
  · exact ⟨_, ‹_›, h⟩
  · simp at h
  · simp at h

theorem runCommands_append {is js : List Instr} {s t : State} (h : runCommands is s = .next t) :
    runCommands (is ++ js) s = runCommands js t := by
  induction is generalizing s with
  | nil => simp only [runCommands] at h; injection h with h; subst h; rfl
  | cons i is ih =>
    obtain ⟨u, hu, hr⟩ := runCommands_cons_eq_next h
    rw [List.cons_append, runCommands_cons hu, ih hr]

theorem runCommands_append_eq_next {is js : List Instr} {s t : State} (h : runCommands (is ++ js) s = .next t) :
    ∃ u, runCommands is s = .next u ∧ runCommands js u = .next t := by
  induction is generalizing s with
  | nil => exact ⟨s, rfl, h⟩
  | cons i is ih =>
    obtain ⟨u, hu, hr⟩ := runCommands_cons_eq_next h
    obtain ⟨v, hv, ht⟩ := ih hr
    exact ⟨v, by rw [runCommands_cons hu, hv], ht⟩

end Sys2Proof.Machine
end

