-- ==== Sys2Proof/Laws/Cycle.lean ====
section
/-! SUPPORT. What happens between START and SCAN: what no command but SCAN can change there, and that only the parameters,
the flags and the window of a state decide what becomes of them. -/

namespace Sys2Proof.Machine

/-- `t` is still in the acquisition cycle `s` is in, and nothing a cycle's result is made of has changed. -/
structure WithinCycle (s t : State) : Prop where
  reading : t.state = .reading
  cfg : t.cfg = s.cfg
  len_le : t.len ≤ t.cfg.cap
  pm1 : t.pm1 = s.pm1
  pm2_5 : t.pm2_5 = s.pm2_5
  pm10 : t.pm10 = s.pm10
  sample_count : t.sample_count = s.sample_count
  consecutive_failures : t.consecutive_failures = s.consecutive_failures
  healthy : t.healthy = s.healthy
  err : t.err = s.err
  chanResets : chanResets t.trace = chanResets s.trace
  stop_req : s.stop_req = true → t.stop_req = true
  link_err : s.link_err = true → t.link_err = true
  ovf : s.ovf = true → t.ovf = true

theorem WithinCycle.refl {s : State} (hr : s.state = .reading) (hl : s.len ≤ s.cfg.cap) : WithinCycle s s :=
  ⟨hr, rfl, hl, rfl, rfl, rfl, rfl, rfl, rfl, rfl, rfl, id, id, id⟩

theorem WithinCycle.trans {s t u : State} (h : WithinCycle s t) (k : WithinCycle t u) : WithinCycle s u where
  reading := k.reading
  cfg := k.cfg.trans h.cfg
  len_le := k.len_le
  pm1 := k.pm1.trans h.pm1
  pm2_5 := k.pm2_5.trans h.pm2_5
  pm10 := k.pm10.trans h.pm10
  sample_count := k.sample_count.trans h.sample_count
  consecutive_failures := k.consecutive_failures.trans h.consecutive_failures
  healthy := k.healthy.trans h.healthy
  err := k.err.trans h.err
  chanResets := k.chanResets.trans h.chanResets
  stop_req := k.stop_req ∘ h.stop_req
  link_err := k.link_err ∘ h.link_err
  ovf := k.ovf ∘ h.ovf

/-- A command other than SCAN leaves the cycle in progress, and a stop or a failure once noted stays noted. -/
theorem does_withinCycle {i : Instr} {s u : State} {o : Out} (hd : Does i s o u) (hr : s.state = .reading)
    (hl : s.len ≤ s.cfg.cap) (hi : i ≠ .scan) : WithinCycle s (emit o u) := by
  cases hd with
  | scanOk => exact absurd rfl hi
  | scanFailed => exact absurd rfl hi
  | scanEscalated => exact absurd rfl hi
  | start h => simp [hr] at h
  | next h => simp [hr, Fsm.isTerminal] at h
  | stop =>
    rw [requestStop_pending (by simp [hr]) (by simp [hr])]
    exact ⟨hr, rfl, hl, rfl, rfl, rfl, rfl, rfl, rfl, rfl, by simp [chanResets, Out.quiet], fun _ => rfl, id, id⟩
  | push _ ha =>
    exact ⟨hr, rfl, ha, rfl, rfl, rfl, rfl, rfl, rfl, rfl, by simp [chanResets], id, id, fun h => by simp [h]⟩
  | overflowEvent =>
    exact ⟨hr, rfl, Nat.zero_le _, rfl, rfl, rfl, rfl, rfl, rfl, rfl, by simp [chanResets], id, fun _ => rfl, id⟩
  | lineEvent =>
    exact ⟨hr, rfl, hl, rfl, rfl, rfl, rfl, rfl, rfl, rfl, by simp [chanResets, Out.quiet], id, fun _ => rfl, id⟩
  | _ =>
    exact ⟨hr, rfl, hl, rfl, rfl, rfl, rfl, rfl, rfl, rfl,
      by simp [chanResets, Out.quiet, Out.rejected, Out.response], id, id, id⟩

/-- Two states in which a cycle goes on, and ends, alike. -/
structure SameCycle (s t : State) : Prop where
  cfg : t.cfg = s.cfg
  state : t.state = s.state
  ovf : t.ovf = s.ovf
  link_err : t.link_err = s.link_err
  len : t.len = s.len
  window : window t = window s

theorem SameCycle.refl (s : State) : SameCycle s s := ⟨rfl, rfl, rfl, rfl, rfl, rfl⟩

/-- The outcome is a function of the parameters, the flags and the window. -/
theorem SameCycle.outcome_eq {s t : State} (h : SameCycle s t) (hl : s.len ≤ s.cfg.cap) : outcome t = outcome s := by
  unfold outcome
  rw [readWindow_ok hl, readWindow_ok (by rw [h.len, h.cfg]; exact hl), h.ovf, h.link_err, h.len, h.window]

/-- A command other than SCAN keeps two cycles alike. -/
theorem SameCycle.step {i : Instr} {s s' t : State} (h : SameCycle s s') (hr : s.state = .reading) (hi : i ≠ .scan)
    (ht : exec i s = .next t) : ∃ t', exec i s' = .next t' ∧ SameCycle t t' := by
  obtain ⟨o, u, hd, rfl⟩ := exec_eq_next ht
  obtain ⟨c1, c2, c3, c4, c5, c6⟩ := h
  have hr' : s'.state = .reading := c2.trans hr
  have same : ∀ o : Out, SameCycle (emit o s) (emit o s') := fun _ => ⟨c1, c2, c3, c4, c5, c6⟩
  cases hd with
  | rejected hl => exact ⟨_, exec_of_reject (by rw [c2]; exact hl), same _⟩
  | ignored hl => exact ⟨_, exec_of_ignore (by rw [c2]; exact hl), same _⟩
  | scanOk => exact absurd rfl hi
  | scanFailed => exact absurd rfl hi
  | scanEscalated => exact absurd rfl hi
  | start h => simp [hr] at h
  | next h => simp [hr, Fsm.isTerminal] at h
  | nop => exact ⟨_, exec_of_does .nop, same _⟩
  | stop =>
    refine ⟨_, exec_of_does .stop, ?_⟩
    rw [requestStop_pending (by simp [hr]) (by simp [hr]), requestStop_pending (by simp [hr']) (by simp [hr'])]
    exact ⟨c1, c2, c3, c4, c5, c6⟩
  | @push _ b _ ha =>
    have hbf : bufFull s' = bufFull s := by simp [bufFull, c5, c1]
    have hpa : pushAddress s' = pushAddress s := by simp [pushAddress, hbf, c5]
    have hd' := exec_of_does (Does.push (b := b) hr' (by rw [hpa, c1]; exact ha))
    rw [hpa, hbf] at hd'
    refine ⟨_, hd', ⟨c1, c2, by simp [c3], c4, rfl, ?_⟩⟩
    show Machine.window (afterPush (bufFull s) (pushAddress s) (setCell (pushAddress s) b s')) =
      Machine.window (afterPush (bufFull s) (pushAddress s) (setCell (pushAddress s) b s))
    by_cases hf : s.len = s.cfg.cap
    · rw [pushAddress_full hf, window_restart, window_restart]
    · rw [pushAddress_room hf, window_append, ← c5, window_append, c6]
  | overflowEvent hj h => exact ⟨_, exec_of_does (.overflowEvent hj hr'), ⟨c1, c2, c3, rfl, rfl, rfl⟩⟩
  | lineEvent hj h => exact ⟨_, exec_of_does (.lineEvent hj hr'), ⟨c1, c2, c3, rfl, c5, c6⟩⟩
  | readLatest => exact ⟨_, exec_of_does .readLatest, ⟨c1, c2, c3, c4, c5, c6⟩⟩
  | readCount => exact ⟨_, exec_of_does .readCount, ⟨c1, c2, c3, c4, c5, c6⟩⟩
  | readHealthy => exact ⟨_, exec_of_does .readHealthy, ⟨c1, c2, c3, c4, c5, c6⟩⟩
  | readStatus => exact ⟨_, exec_of_does .readStatus, ⟨c1, c2, c3, c4, c5, c6⟩⟩

/-- A body of commands other than SCAN completes, within the cycle. -/
theorem runCommands_withinCycle (body : List Instr) {s : State} (hc : 0 < s.cfg.cap) (hr : s.state = .reading)
    (hl : s.len ≤ s.cfg.cap) (hb : ∀ i ∈ body, i ≠ .scan) :
    ∃ t, runCommands body s = .next t ∧ WithinCycle s t := by
  induction body generalizing s with
  | nil => exact ⟨s, rfl, .refl hr hl⟩
  | cons i body ih =>
    obtain ⟨o, u, hd⟩ := does_total (i := i) hc hl
    have hw := does_withinCycle hd hr hl (hb i (by simp))
    obtain ⟨t, ht, hw'⟩ := ih (by rw [hw.cfg]; exact hc) hw.reading hw.len_le fun j hj => hb j (by simp [hj])
    exact ⟨t, by rw [runCommands_cons (exec_of_does hd)]; exact ht, hw.trans hw'⟩

/-- A body of commands other than SCAN keeps two cycles alike. -/
theorem SameCycle.run (body : List Instr) {s s' t : State} (h : SameCycle s s') (hc : 0 < s.cfg.cap)
    (hr : s.state = .reading) (hl : s.len ≤ s.cfg.cap) (hb : ∀ i ∈ body, i ≠ .scan)
    (ht : runCommands body s = .next t) : ∃ t', runCommands body s' = .next t' ∧ SameCycle t t' := by
  induction body generalizing s s' with
  | nil => simp only [runCommands] at ht; injection ht with ht; subst ht; exact ⟨s', rfl, h⟩
  | cons i body ih =>
    obtain ⟨u, hu, hv⟩ := runCommands_cons_eq_next ht
    obtain ⟨u', hu', hs⟩ := h.step hr (hb i (by simp)) hu
    obtain ⟨o, v, hd, rfl⟩ := exec_eq_next hu
    have hw := does_withinCycle hd hr hl (hb i (by simp))
    obtain ⟨t', ht', hs'⟩ := ih hs (by rw [hw.cfg]; exact hc) hw.reading hw.len_le (fun j hj => hb j (by simp [hj])) hv
    exact ⟨t', by rw [runCommands_cons hu']; exact ht', hs'⟩

end Sys2Proof.Machine
end

