-- ==== Sys2Proof/Laws/Words.lean ====
section
/-! SUPPORT. The bits of the two concatenated words of the interface: the command word (R74) and the response (R83). -/

namespace Sys2Proof

/-- A command word, bit by bit: `data` in bits 7:0, `op` above it (R74). -/
theorem cmdWord_getLsbD (a : BitVec 4) (d : Byte) (i : Nat) :
    (a ++ d : CmdWord).getLsbD i = if i < 8 then d.getLsbD i else a.getLsbD (i - 8) := by
  have h := BitVec.getLsbD_append (x := a) (y := d) (i := i)
  exact h

theorem opField_append (a : BitVec 4) (d : Byte) : opField (a ++ d) = a := by
  apply BitVec.eq_of_getLsbD_eq
  intro i hi
  rw [opField, BitVec.getLsbD_extractLsb', cmdWord_getLsbD, if_neg (by omega), show 8 + i - 8 = i by omega]
  simp [hi]

theorem dataField_append (a : BitVec 4) (d : Byte) : dataField (a ++ d) = d := by
  apply BitVec.eq_of_getLsbD_eq
  intro i hi
  rw [dataField, BitVec.getLsbD_extractLsb', cmdWord_getLsbD, if_pos (by omega), Nat.zero_add]
  simp [hi]

/-- A command word is its two fields. -/
theorem append_fields (w : CmdWord) : opField w ++ dataField w = w := by
  apply BitVec.eq_of_getLsbD_eq
  intro i hi
  rw [cmdWord_getLsbD, opField, dataField, BitVec.getLsbD_extractLsb', BitVec.getLsbD_extractLsb']
  split
  · rename_i h; simp [h]
  · rw [show 8 + (i - 8) = i by omega]
    simp [show i - 8 < 4 by omega]

/-- The sixteen command codes. -/
theorem opcode_cases (v : BitVec 4) :
    v = 0x0#4 ∨ v = 0x1#4 ∨ v = 0x2#4 ∨ v = 0x3#4 ∨ v = 0x4#4 ∨ v = 0x5#4 ∨ v = 0x6#4 ∨ v = 0x7#4 ∨ v = 0x8#4 ∨
    v = 0x9#4 ∨ v = 0xA#4 ∨ v = 0xB#4 ∨ v = 0xC#4 ∨ v = 0xD#4 ∨ v = 0xE#4 ∨ v = 0xF#4 := by
  revert v; decide

/-- The mask 0xF00 of the opcode table keeps `op` and clears `data`. -/
theorem mask_op (w : CmdWord) : w &&& 0xF00#12 = opField w ++ 0#8 := by
  apply BitVec.eq_of_getLsbD_eq
  intro i hi
  rw [cmdWord_getLsbD, opField, BitVec.getLsbD_extractLsb', BitVec.getLsbD_and]
  have h : ∀ j : Nat, j < 12 → (0xF00#12).getLsbD j = decide (8 ≤ j) := by decide
  rw [h i hi]
  split
  · simp; omega
  · rw [show 8 + (i - 8) = i by omega]
    simp [show i - 8 < 4 by omega, show 8 ≤ i by omega]

/-- A row of the opcode table matches exactly the words of its code. -/
theorem mask_eq_iff (w : CmdWord) (c : BitVec 4) : w &&& 0xF00#12 = c ++ 0#8 ↔ opField w = c := by
  rw [mask_op]
  constructor
  · intro e
    have := congrArg opField e
    rwa [opField_append, opField_append] at this
  · rintro rfl; rfl

namespace Machine

/-- A response of three fields, bit by bit (R83, READ_LATEST). -/
theorem latestView_getLsbD (s : State) (i : Nat) :
    (latestView s).getLsbD i =
      if i < 16 then s.pm10.getLsbD i else if i - 16 < 16 then s.pm2_5.getLsbD (i - 16) else s.pm1.getLsbD (i - 16 - 16) := by
  have h : (latestView s).getLsbD i =
      ((s.pm1 ++ s.pm2_5 ++ s.pm10 : BitVec (16 + 16 + 16))).getLsbD i := rfl
  rw [h, BitVec.getLsbD_append, BitVec.getLsbD_append]

/-- STATUS, bit by bit (R33). -/
theorem status_getLsbD (s : State) (i : Nat) :
    (status s).getLsbD i =
      if i < 3 then s.state.code.getLsbD i
      else if i < 6 then s.err.code.getLsbD (i - 3)
      else if i < 7 then s.healthy
      else if i < 8 then s.stop_req
      else if i < 16 then s.consecutive_failures.getLsbD (i - 8)
      else if i < 17 then s.ovf
      else if i < 18 then s.link_err
      else if i < 34 then (lenField s).getLsbD (i - 18)
      else false := by
  have h : (status s).getLsbD i =
      (0#14 ++ lenField s ++ BitVec.ofBool s.link_err ++ BitVec.ofBool s.ovf ++ s.consecutive_failures
        ++ BitVec.ofBool s.stop_req ++ BitVec.ofBool s.healthy ++ s.err.code ++ s.state.code :
        BitVec (14 + 16 + 1 + 1 + 8 + 1 + 1 + 3 + 3)).getLsbD i := rfl
  have e1 : i - 3 < 3 ↔ i < 6 := by omega
  have e2 : i - 3 - 3 < 1 ↔ i < 7 := by omega
  have e3 : i - 3 - 3 - 1 < 1 ↔ i < 8 := by omega
  have e4 : i - 3 - 3 - 1 - 1 < 8 ↔ i < 16 := by omega
  have e5 : i - 3 - 3 - 1 - 1 - 8 < 1 ↔ i < 17 := by omega
  have e6 : i - 3 - 3 - 1 - 1 - 8 - 1 < 1 ↔ i < 18 := by omega
  have e7 : i - 3 - 3 - 1 - 1 - 8 - 1 - 1 < 16 ↔ i < 34 := by omega
  have bit : ∀ (b : Bool) (j : Nat), j = 0 → (BitVec.ofBool b).getLsbD j = b := by
    rintro b j rfl; cases b <;> rfl
  rw [h]
  repeat rw [BitVec.getLsbD_append]
  simp only [e1, e2, e3, e4, e5, e6, e7, BitVec.getLsbD_zero]
  split_ifs
  · rfl
  · rfl
  · exact bit _ _ (by omega)
  · exact bit _ _ (by omega)
  · congr 1
  · exact bit _ _ (by omega)
  · exact bit _ _ (by omega)
  · congr 1
  · rfl

end Machine

end Sys2Proof
end

