-- ==== Sys2Proof/Laws/PerInstr.lean ====
section
/-! SUPPORT. One statement per command: the two fields of the word the encoder writes for it (R74, R76). -/

/-- The word of `i` holds its command code in `word[11:8]` and its operand byte in `word[7:0]`. -/
def Sys2Proof.Laws.EncodedWord.Statement (i : Sys2Proof.Instr) : Prop :=
  Sys2Proof.opField (Sys2Proof.encode i) = Sys2Proof.opcode i ∧
    Sys2Proof.dataField (Sys2Proof.encode i) = Sys2Proof.operandByte i

theorem Sys2Proof.Laws.EncodedWord.nop : Sys2Proof.Laws.EncodedWord.Statement .nop :=
  ⟨Sys2Proof.opField_append _ _, Sys2Proof.dataField_append _ _⟩

theorem Sys2Proof.Laws.EncodedWord.start : Sys2Proof.Laws.EncodedWord.Statement .start :=
  ⟨Sys2Proof.opField_append _ _, Sys2Proof.dataField_append _ _⟩

theorem Sys2Proof.Laws.EncodedWord.push (b : Sys2Proof.Byte) : Sys2Proof.Laws.EncodedWord.Statement (.push b) :=
  ⟨Sys2Proof.opField_append _ _, Sys2Proof.dataField_append _ _⟩

theorem Sys2Proof.Laws.EncodedWord.scan : Sys2Proof.Laws.EncodedWord.Statement .scan :=
  ⟨Sys2Proof.opField_append _ _, Sys2Proof.dataField_append _ _⟩

theorem Sys2Proof.Laws.EncodedWord.next : Sys2Proof.Laws.EncodedWord.Statement .next :=
  ⟨Sys2Proof.opField_append _ _, Sys2Proof.dataField_append _ _⟩

theorem Sys2Proof.Laws.EncodedWord.stop : Sys2Proof.Laws.EncodedWord.Statement .stop :=
  ⟨Sys2Proof.opField_append _ _, Sys2Proof.dataField_append _ _⟩

theorem Sys2Proof.Laws.EncodedWord.evFifoOvf : Sys2Proof.Laws.EncodedWord.Statement .evFifoOvf :=
  ⟨Sys2Proof.opField_append _ _, Sys2Proof.dataField_append _ _⟩

theorem Sys2Proof.Laws.EncodedWord.evBufFull : Sys2Proof.Laws.EncodedWord.Statement .evBufFull :=
  ⟨Sys2Proof.opField_append _ _, Sys2Proof.dataField_append _ _⟩

theorem Sys2Proof.Laws.EncodedWord.evBreak : Sys2Proof.Laws.EncodedWord.Statement .evBreak :=
  ⟨Sys2Proof.opField_append _ _, Sys2Proof.dataField_append _ _⟩

theorem Sys2Proof.Laws.EncodedWord.evParity : Sys2Proof.Laws.EncodedWord.Statement .evParity :=
  ⟨Sys2Proof.opField_append _ _, Sys2Proof.dataField_append _ _⟩

theorem Sys2Proof.Laws.EncodedWord.evFrame : Sys2Proof.Laws.EncodedWord.Statement .evFrame :=
  ⟨Sys2Proof.opField_append _ _, Sys2Proof.dataField_append _ _⟩

theorem Sys2Proof.Laws.EncodedWord.readLatest : Sys2Proof.Laws.EncodedWord.Statement .readLatest :=
  ⟨Sys2Proof.opField_append _ _, Sys2Proof.dataField_append _ _⟩

theorem Sys2Proof.Laws.EncodedWord.readCount : Sys2Proof.Laws.EncodedWord.Statement .readCount :=
  ⟨Sys2Proof.opField_append _ _, Sys2Proof.dataField_append _ _⟩

theorem Sys2Proof.Laws.EncodedWord.readHealthy : Sys2Proof.Laws.EncodedWord.Statement .readHealthy :=
  ⟨Sys2Proof.opField_append _ _, Sys2Proof.dataField_append _ _⟩

theorem Sys2Proof.Laws.EncodedWord.readStatus : Sys2Proof.Laws.EncodedWord.Statement .readStatus :=
  ⟨Sys2Proof.opField_append _ _, Sys2Proof.dataField_append _ _⟩

theorem Sys2Proof.Laws.EncodedWord.reservedF : Sys2Proof.Laws.EncodedWord.Statement .reservedF :=
  ⟨Sys2Proof.opField_append _ _, Sys2Proof.dataField_append _ _⟩
end

