-- ==== Sys2Proof/Tests/Slice0.lean ====
section
/-! SUPPORT. Tests with results from the spec (`95_test_vectors.md` unless a comment names another file), the ill-formed
terms the checks refuse, and for every statement with hypotheses a concrete case that meets them. -/

namespace Sys2Proof.Machine.Tests

-- One theorem after the other: many at once take more memory than they save time.
set_option Elab.async false

/-! ## Frames and states of `95_test_vectors.md` part 0 -/

/-- Frame F: reading (300, 150, 50). -/
def bytesF : List Byte :=
  [0x42#8, 0x4D#8, 0#8, 0#8, 0x01#8, 0x2C#8, 0x00#8, 0x96#8, 0x00#8, 0x32#8] ++ List.replicate 12 0#8 ++ [0x01#8, 0x84#8]

/-- Frame G: reading (12, 25, 31). -/
def bytesG : List Byte :=
  [0x42#8, 0x4D#8, 0#8, 0#8, 0x00#8, 0x0C#8, 0x00#8, 0x19#8, 0x00#8, 0x1F#8] ++ List.replicate 12 0#8 ++ [0x00#8, 0xD3#8]

/-- Frame G': G with bit 0 of byte 23 inverted. -/
def bytesG' : List Byte :=
  [0x42#8, 0x4D#8, 0#8, 0#8, 0x00#8, 0x0C#8, 0x00#8, 0x19#8, 0x00#8, 0x1F#8] ++ List.replicate 12 0#8 ++ [0x00#8, 0xD2#8]

/-- Frame F as a RawFrame. -/
def rawF : RawFrame := ⟨bytesF, rfl⟩

/-- F with bytes 4 and 6 exchanged: the sum is kept. -/
def rawSwapped : RawFrame :=
  ⟨[0x42#8, 0x4D#8, 0#8, 0#8, 0x00#8, 0x2C#8, 0x01#8, 0x96#8, 0x00#8, 0x32#8] ++ List.replicate 12 0#8 ++ [0x01#8, 0x84#8],
    rfl⟩

/-- F with another stored checksum. -/
def rawOtherStored : RawFrame := ⟨bytesF.take 22 ++ [0x02#8, 0x84#8], rfl⟩

/-- A block in Reading with the bytes `bs` pushed. -/
def reading (bs : List Byte) : State :=
  { State.reset with state := .reading, buf := (List.range bs.length).zip bs, len := bs.length }

/-- A block in Reading with the write pointer at `n`, nothing recorded of what was pushed. -/
def readingAt (cap n : Nat) : State :=
  { State.resetWith ⟨cap, 2⟩ with state := .reading, len := n }

/-- The next state of an outcome. -/
def nextOf : Host.Outcome State Fault Refusal → Option State
  | .next t => some t
  | .fault _ => none
  | .refused _ => none

/-- One command, and a view of the state after it. -/
def after {α : Type} (i : Instr) (s : State) (view : State → α) : Option α := (nextOf (exec i s)).map view

/-- The last output record. -/
def record (t : State) : Option Out := t.trace.head?

/-! ## Decoding: words written out from R74 and R75 (section 2.9) -/

theorem test_decode_nop : decode 0b0000_0000_0000#12 = .nop ∧ decode 0x0FF#12 = .nop := by decide
theorem test_decode_start : decode 0b0001_0000_0000#12 = .start ∧ decode 0x15A#12 = .start := by decide
theorem test_decode_push : decode 0b0010_0100_0010#12 = .push 0x42#8 ∧ decode 0b0010_1111_1111#12 = .push 0xFF#8 := by decide
theorem test_decode_scan : decode 0b0011_0000_0000#12 = .scan ∧ decode 0x3FF#12 = .scan := by decide
theorem test_decode_next : decode 0b0100_0000_0000#12 = .next := by decide
theorem test_decode_stop : decode 0b0101_0000_0000#12 = .stop := by decide
theorem test_decode_evFifoOvf : decode 0b0110_0000_0000#12 = .evFifoOvf := by decide
theorem test_decode_evBufFull : decode 0b0111_0000_0000#12 = .evBufFull := by decide
theorem test_decode_evBreak : decode 0b1000_0000_0000#12 = .evBreak := by decide
theorem test_decode_evParity : decode 0b1001_0000_0000#12 = .evParity := by decide
theorem test_decode_evFrame : decode 0b1010_0000_0000#12 = .evFrame := by decide
theorem test_decode_readLatest : decode 0b1011_0000_0000#12 = .readLatest := by decide
theorem test_decode_readCount : decode 0b1100_0000_0000#12 = .readCount := by decide
theorem test_decode_readHealthy : decode 0b1101_0000_0000#12 = .readHealthy := by decide
theorem test_decode_readStatus : decode 0b1110_0000_0000#12 = .readStatus ∧ decode 0xE7F#12 = .readStatus := by decide
theorem test_decode_reservedF : decode 0b1111_0000_0000#12 = .reservedF ∧ decode 0xFFF#12 = .reservedF := by decide

/-- A number the port cannot carry is rejected by name; the largest it can carry is a command. -/
theorem test_decode_wider : decodeRaw 4096 = .error (.widerThanPort 4096) ∧ decodeRaw 4095 = .ok .reservedF ∧
    decodeTableWord 16 0x1242 = none := by decide

/-! ## What the checks refuse -/

theorem test_params_standard : Config.standard.wf ∧ Params.wf ⟨24, 0⟩ ∧ Params.wf ⟨65535, 254⟩ := by decide
theorem test_params_small_cap_refused : ¬ Params.wf ⟨23, 2⟩ := by decide
theorem test_params_large_cap_refused : ¬ Params.wf ⟨65536, 2⟩ := by decide
theorem test_params_threshold_refused : ¬ Params.wf ⟨256, 255⟩ := by decide
theorem test_params_fifo : Params.fitsFifo ⟨256, 2⟩ 232 ∧ ¬ Params.fitsFifo ⟨256, 2⟩ 233 := by decide
theorem test_line_push_without_operand_refused : Line.wf ⟨.PUSH, none⟩ = false := by decide
theorem test_line_push_too_large_refused : Line.wf ⟨.PUSH, some 256⟩ = false ∧ Line.wf ⟨.PUSH, some 255⟩ = true := by decide
theorem test_line_start_with_operand_refused : Line.wf ⟨.START, some 5⟩ = false ∧ Line.wf ⟨.START, none⟩ = true := by decide

/-! ## The text of R84 and the pseudo-commands of R82 and R85 (`30_encoding.md`) -/

theorem test_text : assemble "START ; begin\n\nPUSH 0x42\nPUSH 77\nSCAN".toList =
    .ok [.start, .push 0x42#8, .push 0x4D#8, .scan] := by decide +kernel
theorem test_text_refused : assemble "FETCH".toList = .error (.unknownMnemonic "FETCH".toList) ∧
    assemble "PUSH 256".toList = .error (.illFormed ⟨.PUSH, some 256⟩) := by decide +kernel
theorem test_frame_bytes : frameBytes ⟨300#16, 150#16, 50#16⟩ = bytesF := by decide +kernel
theorem test_events : eventCmds (.dataReady [1#8, 2#8]) = [.push 1#8, .push 2#8] ∧ eventCmds .stopSentinel = [.stop] := by
  decide

/-! ## One step of each command (sections 2.1, 2.5 to 2.8) -/

theorem test_nop : after .nop (reading [7#8]) (fun t => (t.state, t.len, record t)) = some (.reading, 1, some {}) := by decide
theorem test_start : after .start { State.reset with len := 30, ovf := true, link_err := true }
    (fun t => (t.state, t.len, t.ovf, t.link_err, record t)) =
    some (.reading, 0, false, false, some { flush_req := true }) := by decide
theorem test_start_rejected : after .start (reading []) (fun t => (t.state, record t)) =
    some (.reading, some { reject := true }) := by decide
theorem test_push : after (.push 0xFF#8) (readingAt 256 255) (fun t => (t.len, t.ovf, memRead1 t 255, record t)) =
    some (256, false, 0xFF#8, some {}) := by decide
theorem test_push_overflow : after (.push 0x7E#8) (readingAt 256 256) (fun t => (t.len, t.ovf, memRead1 t 0, record t)) =
    some (1, true, 0x7E#8, some { buf_overflow := true }) := by decide
theorem test_scan_success : after .scan { reading (bytesF ++ bytesG') with consecutive_failures := 2#8, healthy := false }
    (fun t => (t.state, latestView t, t.sample_count, t.consecutive_failures, t.healthy)) =
    some (.success, 0x012C00960032#48, 1#32, 0#8, true) := by decide +kernel
theorem test_scan_third_failure : after .scan { reading bytesG' with consecutive_failures := 2#8 }
    (fun t => (t.state, t.err, t.consecutive_failures, t.healthy, record t)) =
    some (.checksumFail, .checksumMismatch, 0#8, false, some { chan_reset_req := true }) := by decide +kernel
theorem test_next : after .next { State.reset with state := .success } (fun t => t.state) = some .idle := by decide
theorem test_next_stop : after .next { State.reset with state := .success, stop_req := true }
    (fun t => (t.state, t.stop_req)) = some (.stopped, false) := by decide
theorem test_stop_idle : after .stop State.reset (fun t => (t.state, t.stop_req)) = some (.stopped, false) := by decide
theorem test_stop_reading : after .stop (reading []) (fun t => (t.state, t.stop_req)) = some (.reading, true) := by decide
theorem test_evFifoOvf : after .evFifoOvf { readingAt 256 1 with ovf := true } (fun t => (t.len, t.ovf, t.link_err, record t)) =
    some (0, true, true, some { queue_reset_req := true }) := by decide
theorem test_evBufFull : after .evBufFull (readingAt 256 24) (fun t => (t.len, t.link_err, record t)) =
    some (0, true, some { queue_reset_req := true }) := by decide
theorem test_evBreak : after .evBreak (readingAt 256 24) (fun t => (t.len, t.link_err, record t)) =
    some (24, true, some {}) := by decide
theorem test_evParity : after .evParity { State.reset with state := .noFrame } (fun t => (t.link_err, record t)) =
    some (false, some {}) := by decide
theorem test_evFrame : after .evFrame (readingAt 256 24) (fun t => (t.len, t.link_err, record t)) =
    some (24, true, some {}) := by decide
theorem test_readLatest : after .readLatest { State.reset with state := .stopped, pm1 := 300#16, pm2_5 := 150#16, pm10 := 50#16 }
    record = some (some { rsp := 0x012C00960032#48 }) := by decide
theorem test_readCount : after .readCount { State.reset with sample_count := 0xFFFFFFFF#32 } record =
    some (some { rsp := 0x0000FFFFFFFF#48 }) := by decide
theorem test_readHealthy : after .readHealthy State.reset record = some (some { rsp := 1#48 }) := by decide
theorem test_readStatus : after .readStatus { State.reset with state := .success, len := 24 } record =
    some (some { rsp := 0x000000600042#48 }) := by decide
theorem test_reservedF : after .reservedF (reading []) (fun t => (t.state, record t)) =
    some (.reading, some { reject := true }) := by decide
theorem test_count_saturates : countSample 0xFFFFFFFE#32 = 0xFFFFFFFF#32 ∧ countSample 0xFFFFFFFF#32 = 0xFFFFFFFF#32 := by decide

/-! ## The functions of SCAN (sections 2.2 to 2.4) -/

theorem test_candidates : candidates (bytesF ++ bytesG) = [24, 0] ∧ candidates (bytesF.take 23) = [] ∧
    candidates (bytesF ++ [0x42#8, 0x4D#8]) = [0] ∧ candidates (0x42#8 :: bytesF) = [1] := by decide +kernel
theorem test_first_valid : firstValid (bytesF ++ bytesG) = some 24 ∧ firstValid (bytesF ++ bytesG') = some 0 ∧
    firstValid bytesG' = none := by decide +kernel
theorem test_walk : walk (bytesF ++ bytesG) = [24, 0] := by decide +kernel
theorem test_stream : (stream (bytesF ++ bytesG')).last = some 0 ∧ (stream bytesG').seen = true := by decide +kernel
theorem test_sum : sum rawF = 388#16 ∧ validate rawF = true ∧ validate rawSwapped = true ∧
    validate rawOtherStored = false := by decide +kernel
theorem test_withChecksum : withChecksum rawOtherStored = rawF ∧ checksumMatches rawOtherStored = false := by decide +kernel
theorem test_body_outcome : bodyOutcome ⟨256, 2⟩ (appendCmds bytesF) = some (.ok 0 rawF) := by decide +kernel
theorem test_extract : extract rawF = ⟨300#16, 150#16, 50#16⟩ ∧ extract rawSwapped = ⟨44#16, 406#16, 50#16⟩ := by decide +kernel

/-! ## The step: a word at the port, nothing at the port, hardware reset (`70_reset_and_hazards.md` R220) -/

theorem test_step_word : (nextOf (step (State.reset.withFetchWord 12 0x15A))).map (fun t => (t.state, t.port)) =
    some (.reading, []) := by decide
theorem test_step_reset : (nextOf (step { reading bytesF with sample_count := 9#32, port := [.hardReset (some 0x300#12)] })).map
    (fun t => (t.state, t.len, t.sample_count, t.trace)) = some (.idle, 0, 0#32, []) := by decide

/-! ## For every statement with hypotheses, a case that meets them (one for each clause, at the ends of its range) -/

/-- A block with the small buffer `CAP = 24`, in Reading with `n` bytes pushed. -/
def small (n : Nat) : State := { readingAt 24 n with buf := (List.range n).map fun a => (a, 0#8) }

theorem witness_TextLinesAssemble : (0 : Nat) < 256 ∧ lineInstr ⟨.PUSH, some 0⟩ = some (.push 0#8) ∧ (255 : Nat) < 256 ∧
    lineInstr ⟨.PUSH, some 255⟩ = some (.push 255#8) := by decide

theorem witness_StartBeginsACycle : State.reset.state = .idle ∧ (reading []).state ≠ .idle := by decide

theorem witness_PushAppendsItsByte : (readingAt 256 0).state = .reading ∧ (readingAt 256 0).len < (readingAt 256 0).cfg.cap ∧
    (readingAt 24 23).state = .reading ∧ (readingAt 24 23).len < (readingAt 24 23).cfg.cap ∧
    State.reset.state ≠ .reading := by decide

theorem witness_PushOnFullBufferRestartsIt : (small 24).state = .reading ∧ (small 24).cfg.wf ∧
    (small 24).len = (small 24).cfg.cap ∧ (readingAt 65535 65535).cfg.wf ∧
    (readingAt 65535 65535).len = (readingAt 65535 65535).cfg.cap ∧ State.reset.state ≠ .reading ∧
    ({ reading bytesF with ovf := true } : State).ovf = true := by decide

theorem witness_ScanSuccessPublishesTheFrame : (reading bytesF).state = .reading ∧ (reading bytesF).ovf = false ∧
    (reading bytesF).link_err = false ∧ (reading bytesF).len ≤ (reading bytesF).cfg.cap ∧
    firstValid (window (reading bytesF)) = some 0 ∧ frame (window (reading bytesF)) 0 = some rawF := by decide +kernel

theorem witness_ScanFailurePathAndEscalation : (reading []).cfg.wf ∧ (reading []).state = .reading ∧
    outcome (reading []) = .ok (.failed .noDataAvailable) ∧
    outcome (reading [0#8]) = .ok (.failed .noValidFrameFound) ∧
    outcome (reading bytesG') = .ok (.failed .checksumMismatch) ∧
    outcome { reading bytesF with ovf := true } = .ok (.failed .bufferOverflow) ∧
    outcome { reading bytesF with link_err := true } = .ok (.failed .linkEvent) := by decide +kernel

theorem witness_ScanFailurePathAndEscalation_counts :
    ({ reading [] with consecutive_failures := 1#8 } : State).consecutive_failures.toNat + 1 ≤ (reading []).cfg.threshold ∧
    (reading []).cfg.threshold < ({ reading [] with consecutive_failures := 2#8 } : State).consecutive_failures.toNat + 1 ∧
    (State.resetWith ⟨24, 0⟩).cfg.threshold < (State.resetWith ⟨24, 0⟩).consecutive_failures.toNat + 1 := by decide

theorem witness_ScanRunsOnePathOrIsRejected : State.reset.state ≠ .reading ∧ (small 24).state = .reading ∧
    (small 24).len ≤ (small 24).cfg.cap := by decide

theorem witness_NextLeavesATerminalState :
    (∀ st ∈ [Fsm.success, Fsm.noFrame, Fsm.checksumFail, Fsm.linkError],
      ({ State.reset with state := st } : State).stop_req = false ∧
        ({ State.reset with state := st, stop_req := true } : State).stop_req = true) ∧
    State.reset.state ∈ [Fsm.idle, Fsm.reading, Fsm.stopped] := by decide

theorem witness_StopTakesEffectAtTheBoundary : State.reset.state = .idle ∧
    ({ State.reset with state := .stopped } : State).state = .stopped ∧
    (reading []).state ≠ .idle ∧ (reading []).state ≠ .stopped ∧
    (small 24).state = .reading ∧ 0 < (small 24).cfg.cap ∧ (small 24).len ≤ (small 24).cfg.cap ∧
    (∀ i ∈ [Instr.push 1#8, Instr.evBreak, Instr.stop, Instr.readStatus], i ≠ .scan) := by decide

theorem witness_OverflowEventsClearTheBuffer : Instr.evFifoOvf ∈ [Instr.evFifoOvf, Instr.evBufFull] ∧
    Instr.evBufFull ∈ [Instr.evFifoOvf, Instr.evBufFull] ∧ (small 24).state = .reading := by decide

theorem witness_LineEventsKeepTheBuffer : Instr.evBreak ∈ [Instr.evBreak, Instr.evParity, Instr.evFrame] ∧
    (small 24).state = .reading ∧ ({ reading [] with link_err := true } : State).state = .reading ∧
    ({ reading [] with link_err := true } : State).link_err = true := by decide

theorem witness_EventsOutsideReadingAreIgnored :
    Instr.evParity ∈ [Instr.evFifoOvf, Instr.evBufFull, Instr.evBreak, Instr.evParity, Instr.evFrame] ∧
    State.reset.state ≠ .reading := by decide

theorem witness_ReadStatusReturnsEveryField : (readingAt 65535 65535).len ≤ 65535 := by decide

theorem witness_ReservedCodeIsRejected : decode 0xFAB#12 = .reservedF := by decide

theorem witness_LegalityTableHolds : (Instr.start = .start ∧ (reading []).state ≠ .idle) ∧
    (Instr.evBreak ∈ [Instr.evFifoOvf, Instr.evBufFull, Instr.evBreak, Instr.evParity, Instr.evFrame] ∧
      State.reset.state ≠ .reading) ∧
    after .nop State.reset (fun t => record t) = some (some {}) ∧
    after .evBreak State.reset (fun t => record t) = some (some {}) := by decide

theorem witness_EveryCommandCompletes : 0 < (small 24).cfg.cap ∧ (small 24).len ≤ (small 24).cfg.cap := by decide

theorem witness_TransitionRelationIsComplete :
    after .start State.reset (fun t => t.state) = some .reading ∧
    after .stop State.reset (fun t => t.state) = some .stopped ∧
    after .scan (reading bytesF) (fun t => t.state) = some .success ∧
    after .next { State.reset with state := .linkError } (fun t => t.state) = some .idle ∧
    after .nop (reading []) (fun t => t.state) = some .reading ∧
    ({ State.reset with port := [.hardReset none] } : State).port = .hardReset none :: [] := by decide +kernel

theorem witness_OnlyTheListedCommandsWrite :
    after .scan (reading bytesF) (fun t => (latestView t, t.sample_count)) = some (0x012C00960032#48, 1#32) ∧
    after .scan { reading [] with consecutive_failures := 2#8 } (fun t => (t.consecutive_failures, t.healthy)) =
      some (0#8, false) ∧
    after (.push 0#8) (small 24) (fun t => (t.ovf, t.len)) = some (true, 1) ∧
    after .evBreak (reading []) (fun t => t.link_err) = some true ∧
    after .stop (reading []) (fun t => t.stop_req) = some true ∧
    after .start { State.reset with len := 3 } (fun t => (t.state, t.len)) = some (.reading, 0) := by decide +kernel

theorem witness_OnlyValidatedFramesArePublished :
    after .scan (reading bytesF) (fun t => latestView t) = some 0x012C00960032#48 := by decide +kernel

theorem witness_SampleCountNeverDecreases :
    (nextOf (step { reading bytesF with sample_count := 0xFFFFFFFF#32, port := [.command 0x300#12] })).map
      (fun t => t.sample_count) = some 0xFFFFFFFF#32 := by decide +kernel

theorem witness_OnlyPushStoresAndOnlyOneByte :
    after (.push 9#8) (small 23) (fun t => t.len) = some 24 ∧ after (.push 9#8) (small 24) (fun t => t.len) = some 1 ∧
    after .evFifoOvf (small 24) (fun t => t.len) = some 0 ∧
    after (.push 9#8) State.reset (fun t => t.len) = some 0 := by decide

theorem witness_RecordDependsOnStateAndCommandOnly :
    after .readHealthy State.reset (fun t => t.trace.length) = some 1 := by decide

/-- Two states that differ in a cell outside the window and in the unspecified contents of all others. -/
theorem witness_UnspecifiedCellsNeverMatter :
    SameVisible { reading [7#8] with port := [.command 0x242#12] }
      { reading [7#8] with port := [.command 0x242#12], buf := [(0, 7#8), (5, 9#8)], epoch := 3 } ∧
    (nextOf (step { reading [7#8] with port := [.command 0x242#12] })).map (fun t => t.len) = some 2 :=
  ⟨⟨⟨rfl, rfl, rfl, rfl, rfl, rfl, rfl, rfl, rfl, rfl, rfl, rfl, rfl⟩, rfl, rfl, rfl⟩, by decide⟩

theorem witness_StepRunsTheDecodedCommand :
    ({ State.reset with port := [.command 0x242#12] } : State).port = .command 0x242#12 :: [] ∧ State.reset.port = [] ∧
    (4095 : Nat) < 4096 ∧ decodeTableWord 12 4095 = some .reservedF ∧ decodeTableWord 16 0x242 = some (.push 0x42#8) := by
  decide

theorem witness_HardwareResetSetsEveryRegister :
    ({ reading bytesF with port := [.hardReset none] } : State).port = .hardReset none :: [] ∧
    ({ reading bytesF with port := [.hardReset (some 0x300#12)] } : State).port = .hardReset (some 0x300#12) :: [] := by
  decide

theorem witness_ResetMeetsTheInvariant : Params.wf ⟨24, 0⟩ ∧ Params.wf ⟨65535, 254⟩ := by decide

theorem witness_EveryStepKeepsTheInvariant :
    BlockInvariant { small 24 with port := [.command 0x2FF#12] } ∧
    (nextOf (step { small 24 with port := [.command 0x2FF#12] })).map (fun t => (t.len, t.ovf)) = some (1, true) :=
  ⟨⟨by decide, by decide, by decide, by decide, by decide, by decide, by decide, trivial, by decide⟩, by decide⟩

theorem witness_NoRunEverStops :
    Reachable { State.resetWith ⟨24, 0⟩ with port := [] ++ [.command 0x100#12, .hardReset none] } :=
  .present (State.resetWith ⟨24, 0⟩) _ (.powerOn _ (by decide))

theorem witness_NoCommandLeavesStopped : ({ State.reset with state := .stopped } : State).state = .stopped := by decide

theorem witness_ReadsAreIdempotent :
    (nextOf (runCommands ([.readLatest] ++ [.scan] ++ [.readLatest]) (reading bytesF))).map (fun t => t.trace.map Out.rsp) =
      some [0x012C00960032#48, 0#48, 0#48] := by decide +kernel

theorem witness_CandidatesAreTheHeaderOffsets : (bytesF.take 23).length < 24 ∧ ([] : List Byte).length < 24 := by decide

theorem witness_StreamingDetectorAgrees : firstValid (bytesF ++ bytesG) = some 24 ∧ firstValid bytesG' = none := by
  decide +kernel

theorem witness_ValidateIsHeaderAndSum : validate rawF = true := by decide +kernel

theorem witness_SumStaysInBounds : rawF.byte 0 = 0x42#8 ∧ rawF.byte 1 = 0x4D#8 ∧ validate rawF = true := by decide +kernel

theorem witness_SingleByteChangesAreDetected : validate rawF = true ∧ (0#8 ≠ rawF.byte 0) ∧ (0#8 ≠ rawF.byte 23) ∧
    (∀ k : Fin 24, k.val < 22 → rawOtherStored.byte k = rawF.byte k) ∧ rawOtherStored ≠ rawF ∧
    rawSwapped.byte 0 = rawF.byte 0 ∧ rawSwapped.byte 1 = rawF.byte 1 ∧ rawSwapped.byte 22 = rawF.byte 22 ∧
    rawSwapped.byte 23 = rawF.byte 23 ∧ sum rawSwapped = sum rawF ∧ rawSwapped ≠ rawF := by decide +kernel

/-- The sums of `witness_SingleByteChangesAreDetected` as the statement writes them. -/
theorem witness_SingleByteChangesAreDetected_sum :
    (∑ k : Fin 22, (rawSwapped.byte (k.castLE (by decide))).toNat) = ∑ k : Fin 22, (rawF.byte (k.castLE (by decide))).toNat := by
  decide +kernel

theorem witness_ExtractReadsBigEndianPairs : frame (window (reading bytesF)) 0 = some rawF := by decide +kernel

theorem witness_PipelineRoundTrip : State.reset.cfg.wf ∧ State.reset.state = .idle ∧ State.reset.stop_req = false ∧
    (State.resetWith ⟨24, 0⟩).cfg.wf := by decide

theorem witness_WindowAfterPushes : (readingAt 24 0).cfg.wf ∧ (readingAt 24 0).state = .reading ∧ (readingAt 24 0).len = 0 ∧
    bytesF.length ≤ (readingAt 24 0).cfg.cap ∧ (readingAt 24 0).cfg.cap < (bytesF ++ [0#8]).length := by decide

theorem witness_OutcomePriority : (small 24).len ≤ (small 24).cfg.cap ∧
    ({ reading bytesF with ovf := true, link_err := true } : State).ovf = true ∧
    ({ reading [] with link_err := true } : State).ovf = false ∧
    ({ reading [] with link_err := true } : State).link_err = true ∧
    ((reading []).ovf = false ∧ (reading []).link_err = false ∧ (reading []).len = 0) ∧
    ((reading bytesF).ovf = false ∧ (reading bytesF).link_err = false ∧ (reading bytesF).len ≠ 0) ∧
    firstValid (window (reading bytesF)) = some 0 ∧
    (firstValid (window (reading bytesG')) = none ∧ candidates (window (reading bytesG')) ≠ []) ∧
    (firstValid (window (reading [0#8])) = none ∧ candidates (window (reading [0#8])) = []) := by decide +kernel

theorem witness_ScanCornerCases : ((reading (bytesF.take 23)).len ≤ 23 ∧ (reading (bytesF.take 23)).state = .reading) ∧
    (1 ≤ (reading [0x42#8]).len ∧ (reading [0x42#8]).ovf = false) ∧
    (24 ≤ (small 24).len ∧ ∀ i, i < 25 → i + 24 ≤ (small 24).len →
      ¬ (memRead1 (small 24) i = 0x42#8 ∧ memRead1 (small 24) (i + 1) = 0x4D#8)) ∧
    (cand (window (reading bytesG')) 0 = true ∧ candidates (window (reading bytesG')) = [0] ∧
      (frame (window (reading bytesG')) 0).any validate = false) ∧
    (cand (window (reading bytesF)) 0 = true ∧ (frame (window (reading bytesF)) 0).any validate = true) ∧
    ({ reading [] with link_err := true } : State).link_err = true := by decide +kernel

theorem witness_AnEventFailsTheCycle :
    ({ small 24 with link_err := true } : State).state = .reading ∧
    ({ small 24 with link_err := true } : State).link_err = true ∧
    (∀ i ∈ [Instr.push 1#8, Instr.stop, Instr.readStatus], i ≠ .scan) ∧
    (nextOf (runCommands ([.push 1#8, .stop, .readStatus] ++ [.scan]) { small 24 with link_err := true })).map
      (fun t => t.err) = some .bufferOverflow := by decide +kernel

theorem witness_ThreeChecksumFailuresResetOnce : State.reset.cfg.wf ∧ State.reset.cfg.threshold = 2 ∧
    State.reset.state = .idle ∧ State.reset.stop_req = false ∧ State.reset.consecutive_failures = 0#8 ∧
    (∀ b ∈ [bytesG', bytesG' ++ [1#8], bytesG'], b.length ≤ State.reset.cfg.cap ∧ candidates b ≠ [] ∧ firstValid b = none) := by
  decide +kernel

theorem witness_SustainedFailureEscalatesPeriodically :
    (State.resetWith ⟨24, 254⟩).cfg.wf ∧ (State.resetWith ⟨24, 254⟩).state = .idle ∧
    (State.resetWith ⟨24, 254⟩).stop_req = false ∧ (State.resetWith ⟨24, 254⟩).consecutive_failures = 0#8 ∧
    (∀ b ∈ [[], appendCmds bytesG', appendCmds [0x42#8], appendCmds (bytesF ++ [0#8]), [Instr.evBreak] ++ appendCmds bytesF],
      ∀ i ∈ b, i ≠ .scan ∧ i ≠ .stop) ∧
    bodyOutcome ⟨24, 254⟩ [] = some (.failed .noDataAvailable) ∧
    bodyOutcome ⟨24, 254⟩ (appendCmds bytesG') = some (.failed .checksumMismatch) ∧
    bodyOutcome ⟨24, 254⟩ (appendCmds [0x42#8]) = some (.failed .noValidFrameFound) ∧
    bodyOutcome ⟨24, 254⟩ (appendCmds (bytesF ++ [0#8])) = some (.failed .bufferOverflow) ∧
    bodyOutcome ⟨24, 254⟩ ([Instr.evBreak] ++ appendCmds bytesF) = some (.failed .linkEvent) := by
  decide +kernel

theorem witness_CycleOutcomeIsDecidedByItsBody :
    (State.resetWith ⟨24, 2⟩).cfg.wf ∧ (State.resetWith ⟨24, 2⟩).state = .idle ∧
    (∀ i ∈ [Instr.start, Instr.stop, Instr.evBreak, Instr.push 1#8], i ≠ .scan) ∧
    (∃ i ∈ [Instr.push 1#8, Instr.evFrame],
      i ∈ [Instr.evFifoOvf, Instr.evBufFull, Instr.evBreak, Instr.evParity, Instr.evFrame]) ∧
    24 < (bytesF ++ [0#8]).length ∧ bytesF ≠ [] ∧ bytesF.length ≤ 24 ∧ firstValid bytesF = some 0 ∧
    firstValid bytesG' = none ∧ candidates bytesG' ≠ [] ∧ firstValid [0#8] = none ∧ candidates [0#8] = [] := by
  decide +kernel

theorem witness_WellFormedFramesValidate : rawF.byte 0 = 0x42#8 ∧ rawF.byte 1 = 0x4D#8 ∧
    (rawF.byte 22).toNat * 256 + (rawF.byte 23).toNat = (sum rawF).toNat := by decide +kernel

theorem witness_MemoryIsReadAfterWrite : (1 : Nat) ≠ 0 ∧ Memory.wf [(0, 5#8), (3, 6#8)] ∧
    Memory.write (Memory.write [] 3 6#8) 0 5#8 = [(0, 5#8), (3, 6#8)] ∧ Memory.wf ([] : Memory) := by decide

end Sys2Proof.Machine.Tests
end

section
/-! SUPPORT. The host's side of the state: the port and the trace have no part in what a command does (`00_scope.md` R7,
`10_state.md` R40), and a number that decodes is the word the host presents by `withFetchWord` (`30_encoding.md` R74). -/

namespace Sys2Proof.Machine

/-! ## Another port and another trace -/

/-- The state with what the host will present and what was answered before exchanged for `p` and `os`. -/
def State.withHost (p : List PortItem) (os : List Out) (s : State) : State := { s with port := p, trace := os }

/-- Every register, cell and parameter is as before, so the tests of R194 come out the same. -/
theorem outcome_withHost (p : List PortItem) (os : List Out) (s : State) :
    outcome (s.withHost p os) = outcome s := rfl

theorem leaveTerminal_withHost (p : List PortItem) (os : List Out) (s : State) :
    leaveTerminal (s.withHost p os) = (leaveTerminal s).withHost p os := by
  unfold leaveTerminal
  rw [apply_ite (State.withHost p os)]
  rfl

theorem requestStop_withHost (p : List PortItem) (os : List Out) (s : State) :
    requestStop (s.withHost p os) = (requestStop s).withHost p os := by
  by_cases hi : s.state = .idle
  · rw [requestStop_idle hi, requestStop_idle (s := s.withHost p os) hi]; rfl
  by_cases hs : s.state = .stopped
  · rw [requestStop_stopped hs, requestStop_stopped (s := s.withHost p os) hs]
  · rw [requestStop_pending hi hs, requestStop_pending (s := s.withHost p os) hi hs]; rfl

/-- With another port and another trace a command answers the same record and does the same to the rest of the state. -/
theorem Does.withHost {i : Instr} {s u : State} {o : Out} (hd : Does i s o u) (p : List PortItem) (os : List Out) :
    Does i (s.withHost p os) o (u.withHost p os) := by
  cases hd with
  | rejected h => exact .rejected h
  | ignored h => exact .ignored h
  | nop => exact .nop
  | start h => exact .start h
  | push h ha => exact .push h ha
  | scanOk h ho => exact .scanOk h ((outcome_withHost p os s).trans ho)
  | scanFailed h ho he => exact .scanFailed h ((outcome_withHost p os s).trans ho) he
  | scanEscalated h ho he => exact .scanEscalated h ((outcome_withHost p os s).trans ho) he
  | next h => rw [← leaveTerminal_withHost]; exact .next h
  | stop => rw [← requestStop_withHost]; exact .stop
  | overflowEvent hi h => exact .overflowEvent hi h
  | lineEvent hi h => exact .lineEvent hi h
  | readLatest => exact .readLatest
  | readCount => exact .readCount
  | readHealthy => exact .readHealthy
  | readStatus => exact .readStatus

/-- What a command does besides answering its record leaves the trace alone. -/
theorem Does.trace_eq {i : Instr} {s u : State} {o : Out} (hd : Does i s o u) : u.trace = s.trace := by
  cases hd with
  | next => exact leaveTerminal_trace s
  | stop => exact requestStop_trace s
  | _ => rfl

/-- Settles O29: whatever a command does, it does the same beside any other port and trace. -/
theorem recordDependsOnStateAndCommandOnly : Obligations.RecordDependsOnStateAndCommandOnly := by
  intro i s t p os h
  obtain ⟨o, u, hd, rfl⟩ := exec_eq_next h
  exact ⟨o, congrArg (o :: ·) hd.trace_eq, exec_of_does (hd.withHost p os)⟩

/-! ## The word at the head of the port -/

/-- A number decodes exactly when it fits the port, and then as the 12-bit word it stands for (R74). -/
theorem decodeTableWord_eq_some {n w : Nat} {i : Instr} :
    decodeTableWord n w = some i ↔ w < 4096 ∧ decode (BitVec.ofNat 12 w) = i := by
  by_cases hw : w < 4096 <;> simp [decodeTableWord, decodeRaw, hw]

/-- The command presented by `withFetchWord` is the next one, and taking it leaves the port as it was before. -/
theorem step_withFetchWord (s : State) (n w : Nat) :
    step (s.withFetchWord n w) = exec (decode (BitVec.ofNat 12 w)) s :=
  step_command rfl

/-- Settles O31, from the equations of `step` for a port with a word at its head and for an empty one. -/
theorem stepRunsTheDecodedCommand : Obligations.StepRunsTheDecodedCommand := by
  refine ⟨fun _ _ _ => step_command, fun _ => step_empty, fun s n w i _ hd => ?_⟩
  obtain ⟨-, rfl⟩ := decodeTableWord_eq_some.mp hd
  exact step_withFetchWord s n w

end Sys2Proof.Machine
end

section
/-! SUPPORT. The state family (`10_state.md`): who writes which register (R31), and the invariant of the block (R35) at
reset and along every step. -/

namespace Sys2Proof.Machine

/-! ## Terminal states and the causes of a failure -/

theorem Fsm.not_resting_of_isTerminal {st : Fsm} (h : st.isTerminal = true) : ¬ (st = .idle ∨ st = .stopped) := by
  rintro (rfl | rfl) <;> simp [Fsm.isTerminal] at h

@[simp] theorem Failure.terminal_isTerminal (c : Failure) : c.terminal.isTerminal = true := by
  cases c <;> rfl

@[simp] theorem Failure.terminal_ne_success (c : Failure) : c.terminal ≠ .success := by
  cases c <;> simp [Failure.terminal]

@[simp] theorem Failure.err_ne_none (c : Failure) : c.err ≠ .none := by
  cases c <;> simp [Failure.err]

/-- Every candidate of the window has a whole frame's length in it (R110). -/
theorem candidate_le_len {s : State} {i : Nat} (h : i ∈ candidates (window s)) : 24 ≤ s.len := by
  have := cand_bound ((mem_candidates _ i).mp h)
  rw [window_length] at this
  omega

/-- A window fails by a candidate that does not validate, or by having none (R194 lines 5 and 6). -/
theorem classify_eq_failed {w : List Byte} {c : Failure} (h : classify w = .failed c) :
    (c = .checksumMismatch ∧ candidates w ≠ []) ∨ (c = .noValidFrameFound ∧ candidates w = []) := by
  have hn : selected w = none := by
    rcases hs : selected w with _ | ⟨i, f⟩
    · rfl
    · rw [classify_of_selected hs] at h; simp at h
  by_cases hc : candidates w = []
  · rw [classify_of_none hn hc] at h
    injection h with h; exact .inr ⟨h.symm, hc⟩
  · rw [classify_of_candidate hn hc] at h
    injection h with h; exact .inl ⟨h.symm, hc⟩

/-- An outcome `Failure` is decided by a flag, by an empty window, or by the window (R194). -/
theorem outcome_eq_failed {s : State} {c : Failure} (h : outcome s = .ok (.failed c)) :
    (c = .bufferOverflow ∧ s.ovf = true) ∨ (c = .linkEvent ∧ s.ovf = false ∧ s.link_err = true) ∨
    (c = .noDataAvailable ∧ s.ovf = false ∧ s.link_err = false ∧ s.len = 0) ∨
    (s.ovf = false ∧ s.link_err = false ∧ s.len ≠ 0 ∧ classify (window s) = .failed c) := by
  by_cases ho : s.ovf = true
  · have hc : c = .bufferOverflow := by simpa [outcome, ho, eq_comm] using h
    exact .inl ⟨hc, ho⟩
  rw [Bool.not_eq_true] at ho
  by_cases hl : s.link_err = true
  · have hc : c = .linkEvent := by simpa [outcome, ho, hl, eq_comm] using h
    exact .inr (.inl ⟨hc, ho, hl⟩)
  rw [Bool.not_eq_true] at hl
  by_cases hn : s.len = 0
  · have hc : c = .noDataAvailable := by simpa [outcome, ho, hl, hn, eq_comm] using h
    exact .inr (.inr (.inl ⟨hc, ho, hl, hn⟩))
  by_cases hcap : s.len ≤ s.cfg.cap
  · have hw : classify (window s) = .failed c := by
      rw [outcome_eq_classify ho hl hn hcap] at h
      injection h
    exact .inr (.inr (.inr ⟨ho, hl, hn, hw⟩))
  · simp [outcome, ho, hl, hn, readWindow, hcap] at h

/-! ## Who writes which register (R31) -/

section
variable {i : Instr} {s u : State} {o : Out}

/-- The sample counter stays or is counted up, R141. -/
theorem Does.sample_count_cases (hd : Does i s o u) :
    u.sample_count = s.sample_count ∨ u.sample_count = countSample s.sample_count := by
  cases hd with
  | scanOk => exact .inr rfl
  | next => exact .inl (leaveTerminal_sample_count s)
  | stop => exact .inl (requestStop_sample_count s)
  | _ => exact .inl rfl

/-- The reading and its counter, R20 and R21. -/
theorem Does.result_writers (hd : Does i s o u)
    (h : u.pm1 ≠ s.pm1 ∨ u.pm2_5 ≠ s.pm2_5 ∨ u.pm10 ≠ s.pm10 ∨ u.sample_count ≠ s.sample_count) :
    i = .scan ∧ s.state = .reading ∧ u.state = .success := by
  cases hd with
  | scanOk hr => exact ⟨rfl, hr, rfl⟩
  | _ => simp at h

/-- The failure count, R22. -/
theorem Does.consecutive_failures_writers (hd : Does i s o u)
    (h : u.consecutive_failures ≠ s.consecutive_failures) :
    i = .scan ∧ s.state = .reading ∧ (u.consecutive_failures = 0#8 ∨
      (u.state ≠ .success ∧ u.consecutive_failures = s.consecutive_failures + 1#8)) := by
  cases hd with
  | scanOk hr => exact ⟨rfl, hr, .inl rfl⟩
  | @scanFailed _ c hr =>
    have hn : BitVec.ofNat 8 (failuresPlusOne s) = s.consecutive_failures + 1#8 := by
      simp [failuresPlusOne, BitVec.ofNat_add]
    exact ⟨rfl, hr, .inr ⟨c.terminal_ne_success, hn⟩⟩
  | scanEscalated hr => exact ⟨rfl, hr, .inl rfl⟩
  | _ => simp at h

/-- `healthy`, R24. -/
theorem Does.healthy_writers (hd : Does i s o u) (h : u.healthy ≠ s.healthy) :
    i = .scan ∧ s.state = .reading ∧ ((u.state = .success ∧ u.healthy = true) ∨
      (u.state ≠ .success ∧ s.cfg.threshold < s.consecutive_failures.toNat + 1 ∧ u.healthy = false)) := by
  cases hd with
  | scanOk hr => exact ⟨rfl, hr, .inl ⟨rfl, rfl⟩⟩
  | @scanEscalated _ c hr _ he => exact ⟨rfl, hr, .inr ⟨c.terminal_ne_success, of_decide_eq_true he, rfl⟩⟩
  | _ => simp at h

/-- `ovf`, R25. -/
theorem Does.ovf_writers (hd : Does i s o u) (h : u.ovf ≠ s.ovf) :
    (i = .start ∧ s.state = .idle ∧ u.ovf = false) ∨
    (∃ b, i = .push b ∧ s.state = .reading ∧ s.len = s.cfg.cap ∧ u.ovf = true) := by
  cases hd with
  | start hi => exact .inl ⟨rfl, hi, rfl⟩
  | @push _ b hr =>
    have hf : bufFull s = true := by
      by_contra hf
      simp [hf] at h
    exact .inr ⟨b, rfl, hr, (bufFull_iff s).mp hf, by simp [hf]⟩
  | _ => simp at h

/-- `link_err`, R26. -/
theorem Does.link_err_writers (hd : Does i s o u) (h : u.link_err ≠ s.link_err) :
    (i = .start ∧ s.state = .idle ∧ u.link_err = false) ∨
    (i ∈ [Instr.evFifoOvf, Instr.evBufFull, Instr.evBreak, Instr.evParity, Instr.evFrame] ∧
      s.state = .reading ∧ u.link_err = true) := by
  cases hd with
  | start hi => exact .inl ⟨rfl, hi, rfl⟩
  | overflowEvent hi hr => exact .inr ⟨by rcases hi with rfl | rfl <;> simp, hr, rfl⟩
  | lineEvent hi hr => exact .inr ⟨by rcases hi with rfl | rfl | rfl <;> simp, hr, rfl⟩
  | _ => simp at h

/-- `stop_req`, R27. -/
theorem Does.stop_req_writers (hd : Does i s o u) (h : u.stop_req ≠ s.stop_req) :
    (i = .next ∧ u.state = .stopped ∧ u.stop_req = false) ∨
    (i = .stop ∧ s.state ≠ .idle ∧ s.state ≠ .stopped ∧ u.stop_req = true) := by
  cases hd with
  | next =>
    have hp : s.stop_req = true := by simpa using h
    exact .inl ⟨rfl, by simp [hp], leaveTerminal_stop_req s⟩
  | stop =>
    by_cases hi : s.state = .idle
    · rw [requestStop_idle hi] at h; exact absurd rfl h
    by_cases hs : s.state = .stopped
    · rw [requestStop_stopped hs] at h; exact absurd rfl h
    exact .inr ⟨rfl, hi, hs, by rw [requestStop_pending hi hs]⟩
  | _ => simp at h

/-- `err`, R28. -/
theorem Does.err_writers (hd : Does i s o u) (h : u.err ≠ s.err) :
    i = .scan ∧ s.state = .reading ∧ (u.err = .none ↔ u.state = .success) := by
  cases hd with
  | scanOk hr => exact ⟨rfl, hr, by simp⟩
  | scanFailed hr => exact ⟨rfl, hr, by simp⟩
  | scanEscalated hr => exact ⟨rfl, hr, by simp⟩
  | _ => simp at h

/-- `state`, R23. -/
theorem Does.state_writers (hd : Does i s o u) (h : u.state ≠ s.state) :
    (i = .start ∧ u.state = .reading) ∨ (i = .scan ∧ u.state.isTerminal = true) ∨
    (i = .next ∧ (u.state = .idle ∨ u.state = .stopped)) ∨ (i = .stop ∧ s.state = .idle ∧ u.state = .stopped) := by
  cases hd with
  | start => exact .inl ⟨rfl, rfl⟩
  | scanOk => exact .inr (.inl ⟨rfl, rfl⟩)
  | @scanFailed _ c => exact .inr (.inl ⟨rfl, c.terminal_isTerminal⟩)
  | @scanEscalated _ c => exact .inr (.inl ⟨rfl, c.terminal_isTerminal⟩)
  | next => exact .inr (.inr (.inl ⟨rfl, by cases hp : s.stop_req <;> simp [hp]⟩))
  | stop =>
    by_cases hi : s.state = .idle
    · exact .inr (.inr (.inr ⟨rfl, hi, by rw [requestStop_idle hi]⟩))
    by_cases hs : s.state = .stopped
    · rw [requestStop_stopped hs] at h; exact absurd rfl h
    · rw [requestStop_pending hi hs] at h; exact absurd rfl h
  | _ => simp at h

/-- `buf`, R29. -/
theorem Does.buf_writers (hd : Does i s o u) (h : u.buf ≠ s.buf) :
    ∃ b, i = .push b ∧ s.state = .reading ∧ u.buf = Memory.write s.buf (pushAddress s) b := by
  cases hd with
  | @push _ b hr => exact ⟨b, rfl, hr, rfl⟩
  | _ => simp at h

/-- `len`, R30. -/
theorem Does.len_writers (hd : Does i s o u) (h : u.len ≠ s.len) :
    (i = .start ∧ u.len = 0) ∨
    ((∃ b, i = .push b) ∧ s.state = .reading ∧ (u.len = s.len + 1 ∨ (s.len = s.cfg.cap ∧ u.len = 1))) ∨
    (i ∈ [Instr.evFifoOvf, Instr.evBufFull] ∧ s.state = .reading ∧ u.len = 0) := by
  cases hd with
  | start => exact .inl ⟨rfl, rfl⟩
  | @push _ b hr =>
    refine .inr (.inl ⟨⟨b, rfl⟩, hr, ?_⟩)
    by_cases hf : s.len = s.cfg.cap
    · exact .inr ⟨hf, by simp [pushAddress_full hf]⟩
    · exact .inl (by simp [pushAddress_room hf])
  | overflowEvent hi hr => exact .inr (.inr ⟨by rcases hi with rfl | rfl <;> simp, hr, rfl⟩)
  | _ => simp at h

/-- What no command writes: the parameters (R9), the port and the reset epoch. -/
theorem Does.cfg_port_epoch_eq (hd : Does i s o u) :
    u.cfg = s.cfg ∧ u.port = s.port ∧ u.epoch = s.epoch := by
  cases hd with
  | next => exact ⟨leaveTerminal_cfg s, leaveTerminal_port s, leaveTerminal_epoch s⟩
  | stop => exact ⟨requestStop_cfg s, requestStop_port s, requestStop_epoch s⟩
  | _ => exact ⟨rfl, rfl, rfl⟩

end

/-- Settles O25, from the writers of each piece of state. -/
theorem onlyTheListedCommandsWrite : Obligations.OnlyTheListedCommandsWrite := by
  intro i s t ht
  obtain ⟨o, u, hd, rfl⟩ := exec_eq_next ht
  exact ⟨hd.result_writers, hd.consecutive_failures_writers, hd.healthy_writers, hd.ovf_writers, hd.link_err_writers,
    hd.stop_req_writers, hd.err_writers, hd.state_writers, hd.buf_writers, hd.len_writers, hd.cfg_port_epoch_eq⟩

/-! ## The sample counter (R21, R141) -/

/-- The counter law never counts down, and by one at most. -/
theorem countSample_bounds (n : U32) : n.toNat ≤ (countSample n).toNat ∧ (countSample n).toNat ≤ n.toNat + 1 := by
  have := n.isLt
  rw [countSample_toNat]
  omega

/-- The counter saturates, and so it never comes back to 0. -/
theorem countSample_ne_zero (n : U32) : countSample n ≠ 0#32 := by
  intro h
  have := congrArg BitVec.toNat h
  rw [countSample_toNat, BitVec.toNat_ofNat] at this
  omega

/-- Settles O27: a step that is no hardware reset waits, or runs a command, which keeps the counter or counts once. -/
theorem sampleCountNeverDecreases : Obligations.SampleCountNeverDecreases := by
  intro s t ht hport
  rcases step_eq_next ht with ⟨-, rfl⟩ | ⟨w, rest, o, u, -, hd, rfl⟩ | ⟨a, rest, hp, -⟩
  · exact ⟨Nat.le_refl _, Nat.le_succ _⟩
  · rw [emit_sample_count]
    rcases hd.sample_count_cases with h | h <;> rw [h]
    · exact ⟨Nat.le_refl _, Nat.le_succ _⟩
    · exact countSample_bounds _
  · exact absurd hp (hport a rest)

/-! ## The reset state (R45) -/

/-- Settles O33: each value of R45, and STATUS as it is made of them. -/
theorem resetValuesAreTheListedOnes : Obligations.ResetValuesAreTheListedOnes :=
  ⟨rfl, rfl, rfl, rfl, rfl, rfl, rfl, rfl, rfl, rfl, rfl, rfl, read_nil, by decide⟩

theorem blockInvariant_resetWith {p : Params} (h : p.wf) : BlockInvariant (State.resetWith p) where
  cfg_wf := h
  len_le_cap := Nat.zero_le _
  failures_le := Nat.zero_le _
  buf_wf := List.Pairwise.nil
  buf_inside := by simp [State.resetWith]
  window_written := by simp [State.resetWith]
  no_stop_pending := fun _ => rfl
  outcome_agrees := trivial
  no_reading_yet := fun _ => ⟨rfl, rfl, rfl⟩

/-- Settles O34: the block of `State.reset` is one with legal parameters. -/
theorem resetMeetsTheInvariant : Obligations.ResetMeetsTheInvariant :=
  ⟨blockInvariant_resetWith (by decide), fun _ => blockInvariant_resetWith⟩

/-! ## The invariant under the named updates (R35) -/

/-- The fields of the model's own have no part in the invariant. -/
theorem BlockInvariant.withOwnFields {s : State} (h : BlockInvariant s) (e : Nat) (p : List PortItem) (os : List Out) :
    BlockInvariant { s with epoch := e, port := p, trace := os } where
  __ := h

theorem BlockInvariant.enterReading {s : State} (h : BlockInvariant s) : BlockInvariant (enterReading s) where
  __ := h
  len_le_cap := Nat.zero_le _
  window_written := by simp
  no_stop_pending := by simp
  outcome_agrees := trivial

theorem pushAddress_le_len (s : State) : pushAddress s ≤ s.len := by
  by_cases hf : s.len = s.cfg.cap
  · simp [pushAddress_full hf]
  · simp [pushAddress_room hf]

/-- Storing at an address up to the write pointer, inside `buf`, and moving the pointer past it: the window is written
still (R102, R103). -/
theorem BlockInvariant.store {s : State} (h : BlockInvariant s) (hr : s.state = .reading) (full : Bool) {a : Nat}
    (b : Byte) (hl : a ≤ s.len) (ha : a < s.cfg.cap) : BlockInvariant (afterPush full a (setCell a b s)) where
  __ := h
  len_le_cap := ha
  buf_wf := write_wf h.buf_wf a b
  buf_inside c hc := by
    rcases mem_write hc with rfl | hc
    · exact ha
    · exact h.buf_inside c hc
  window_written x hx := by
    rw [afterPush_len] at hx
    by_cases hxa : x = a
    · subst hxa; simp
    · simpa [read_write_other hxa] using h.window_written x (by omega)
  outcome_agrees := by simp [outcomeAgrees, hr]

theorem BlockInvariant.markLinkError {s : State} (h : BlockInvariant s) (hr : s.state = .reading) :
    BlockInvariant (markLinkError s) where
  __ := h
  outcome_agrees := by simp [outcomeAgrees, hr]

theorem BlockInvariant.bufClear {s : State} (h : BlockInvariant s) (hr : s.state = .reading) :
    BlockInvariant (bufClear s) where
  __ := h
  len_le_cap := Nat.zero_le _
  window_written := by simp
  outcome_agrees := by simp [outcomeAgrees, hr]

theorem BlockInvariant.recordSuccess {s : State} (h : BlockInvariant s) {i : Nat} {f : RawFrame}
    (ho : outcome s = .ok (.ok i f)) : BlockInvariant (recordSuccess f s) where
  __ := h
  failures_le := Nat.zero_le _
  no_stop_pending := by simp
  outcome_agrees := by
    obtain ⟨hovf, hlink, -, -, hsel⟩ := outcome_eq_ok ho
    exact ⟨rfl, hovf, hlink, candidate_le_len (selected_spec hsel).1⟩
  no_reading_yet h0 := absurd h0 (countSample_ne_zero _)

/-- A failure is recorded in agreement with the flags and the window SCAN saw (R190, R194). -/
theorem outcomeAgrees_recordFailure {s : State} {c : Failure} (ho : outcome s = .ok (.failed c)) :
    outcomeAgrees (recordFailure c s) := by
  rcases outcome_eq_failed ho with
    ⟨rfl, hovf⟩ | ⟨rfl, hovf, hlink⟩ | ⟨rfl, hovf, hlink, hlen⟩ | ⟨hovf, hlink, hlen, hw⟩
  · exact .inl ⟨rfl, hovf⟩
  · exact .inr ⟨rfl, hovf, hlink⟩
  · exact ⟨hovf, hlink, .inl ⟨rfl, hlen⟩⟩
  · rcases classify_eq_failed hw with ⟨rfl, hc⟩ | ⟨rfl, -⟩
    · obtain ⟨i, hi⟩ := List.exists_mem_of_ne_nil _ hc
      exact ⟨rfl, hovf, hlink, candidate_le_len hi⟩
    · exact ⟨hovf, hlink, .inr ⟨rfl, Nat.pos_of_ne_zero hlen⟩⟩

/-- A failure keeps the invariant whatever it does to `healthy`, so long as the new count is at most `THRESHOLD` (R196). -/
theorem BlockInvariant.recordFailure {s : State} (h : BlockInvariant s) {c : Failure}
    (ho : outcome s = .ok (.failed c)) (healthy : Bool) {n : BitVec 8} (hn : n.toNat ≤ s.cfg.threshold) :
    BlockInvariant { recordFailure c s with consecutive_failures := n, healthy := healthy } where
  __ := h
  failures_le := hn
  no_stop_pending hst := absurd hst (Fsm.not_resting_of_isTerminal c.terminal_isTerminal)
  outcome_agrees := outcomeAgrees_recordFailure ho

/-- A failure that does not escalate leaves a count within `THRESHOLD`, and nothing of it is cut off (R196). -/
theorem failuresPlusOne_le {s : State} (he : escalates s = false) :
    (BitVec.ofNat 8 (failuresPlusOne s)).toNat ≤ s.cfg.threshold := by
  have hn : failuresPlusOne s ≤ s.cfg.threshold := by simpa [escalates] using he
  rw [BitVec.toNat_ofNat]
  omega

theorem BlockInvariant.leaveTerminal {s : State} (h : BlockInvariant s) : BlockInvariant (leaveTerminal s) := by
  unfold Machine.leaveTerminal
  split
  · exact { h with no_stop_pending := fun _ => rfl, outcome_agrees := trivial }
  · exact { h with no_stop_pending := fun _ => by simpa using ‹¬ s.stop_req = true›, outcome_agrees := trivial }

theorem BlockInvariant.requestStop {s : State} (h : BlockInvariant s) : BlockInvariant (requestStop s) := by
  by_cases hi : s.state = .idle
  · rw [requestStop_idle hi]
    exact { h with no_stop_pending := fun _ => h.no_stop_pending (.inl hi), outcome_agrees := trivial }
  by_cases hs : s.state = .stopped
  · rwa [requestStop_stopped hs]
  · rw [requestStop_pending hi hs]
    exact { h with no_stop_pending := fun hst => absurd hst (not_or.mpr ⟨hi, hs⟩) }

/-- Every command keeps the invariant. -/
theorem Does.keeps_invariant {i : Instr} {s u : State} {o : Out} (hd : Does i s o u) (h : BlockInvariant s) :
    BlockInvariant u := by
  cases hd with
  | start => exact h.enterReading
  | push hr ha => exact h.store hr _ _ (pushAddress_le_len s) ha
  | scanOk _ ho => exact h.recordSuccess ho
  | scanFailed _ ho he => exact h.recordFailure ho s.healthy (failuresPlusOne_le he)
  | scanEscalated _ ho => exact h.recordFailure ho false (Nat.zero_le _)
  | next => exact h.leaveTerminal
  | stop => exact h.requestStop
  | overflowEvent _ hr => exact (h.bufClear hr).markLinkError hr
  | lineEvent _ hr => exact h.markLinkError hr
  | _ => exact h

/-- Settles O35: waiting changes nothing, a command keeps the invariant, and hardware reset establishes it anew. -/
theorem everyStepKeepsTheInvariant : Obligations.EveryStepKeepsTheInvariant := by
  intro s t h ht
  rcases step_eq_next ht with ⟨-, rfl⟩ | ⟨w, rest, o, u, -, hd, rfl⟩ | ⟨a, rest, -, rfl⟩
  · exact h
  · exact (hd.keeps_invariant (h.withOwnFields s.epoch rest s.trace)).withOwnFields u.epoch u.port (o :: u.trace)
  · exact (blockInvariant_resetWith h.cfg_wf).withOwnFields (s.epoch + 1) rest s.trace

end Sys2Proof.Machine
end

section
/-! SUPPORT. The memory family (`20_memory.md`): the buffer's cells are read after write (R60), only a PUSH in Reading
stores (R52, R102, R103), and every command completes (R193). -/

namespace Sys2Proof.Machine

/-! ## Cells -/

/-- In a canonical memory the listed cells are exactly what it reads as. -/
theorem mem_iff_read {m : Memory} (h : Memory.wf m) (c : Host.Cell) : c ∈ m ↔ Memory.read m c.1 = some c.2 :=
  ⟨read_of_mem h, mem_of_read⟩

/-- Two canonical memories that read alike list the same cells, and rising addresses leave one order for them. -/
theorem Memory.ext_of_wf {m m' : Memory} (h : Memory.wf m) (h' : Memory.wf m')
    (hr : ∀ a, Memory.read m a = Memory.read m' a) : m = m' := by
  have hmem : ∀ c, c ∈ m ↔ c ∈ m' := fun c => by rw [mem_iff_read h, mem_iff_read h', hr]
  have hasymm : Std.Asymm fun c d : Host.Cell => c.1 < d.1 := ⟨fun _ _ => Nat.lt_asymm⟩
  exact h.eq_of_mem_iff h' hmem

/-- Settles O55, from the equations of a read after a write and the canonical form. -/
theorem memoryIsReadAfterWrite : Obligations.MemoryIsReadAfterWrite :=
  ⟨read_write_same, fun m _ _ b hne => read_write_other hne m b, fun _ a b hm => write_wf hm a b,
    fun _ _ => Memory.ext_of_wf⟩

/-! ## Stores -/

/-- R102 and R103 in one line: the write pointer, or 0 when the buffer is full. -/
theorem pushAddress_eq (s : State) : pushAddress s = if s.len = s.cfg.cap then 0 else s.len := by
  split
  · exact pushAddress_full ‹_›
  · exact pushAddress_room ‹_›

/-- In Reading a PUSH is neither rejected nor ignored: it stores inside the buffer (R52, R102, R103). -/
theorem Does.push_in_reading {b : Byte} {s u : State} {o : Out} (hd : Does (.push b) s o u) (hr : s.state = .reading) :
    pushAddress s < s.cfg.cap ∧
      u = afterPush (bufFull s) (pushAddress s) (setCell (pushAddress s) b s) := by
  have hl : legality (.push b) s.state = .exec := by simp [legality, execOnlyIf, hr]
  cases hd with
  | rejected h => simp [hl] at h
  | ignored h => simp [hl] at h
  | push _ ha => exact ⟨ha, rfl⟩
  | overflowEvent hi => simp at hi
  | lineEvent hi => simp at hi

/-- Whatever is not a PUSH in Reading leaves the cells as they were, by the one writer of `buf` (R31). -/
theorem Does.memRead1_eq_of_not_push {i : Instr} {s u : State} {o : Out} (hd : Does i s o u)
    (hp : ∀ b, i = .push b → s.state ≠ .reading) : memRead1 u = memRead1 s := by
  have hbuf : u.buf = s.buf := by
    by_contra hne
    obtain ⟨b, hi, hr, -⟩ := hd.buf_writers hne
    exact hp b hi hr
  obtain ⟨-, -, hepoch⟩ := hd.cfg_port_epoch_eq
  exact memRead1_congr hbuf hepoch

/-- Settles O28: a PUSH in Reading is one `setCell`, and every other command leaves `buf` alone. -/
theorem onlyPushStoresAndOnlyOneByte : Obligations.OnlyPushStoresAndOnlyOneByte := by
  intro i s t ht
  obtain ⟨o, u, hd, rfl⟩ := exec_eq_next ht
  rw [memRead1_emit]
  refine ⟨fun b hi hr => ?_, fun hp a => congrFun (hd.memRead1_eq_of_not_push hp) a⟩
  subst hi
  obtain ⟨ha, rfl⟩ := hd.push_in_reading hr
  rw [memRead1_afterPush]
  exact ⟨ha, pushAddress_eq s, memRead1_setCell_same _ b s, fun _ hne => memRead1_setCell_other hne b s⟩

/-! ## Completion -/

/-- Settles O23: a command does something wherever the write pointer is inside the buffer, and `exec` answers it. -/
theorem everyCommandCompletes : Obligations.EveryCommandCompletes := by
  intro i s hcap hlen
  obtain ⟨o, u, hd⟩ := does_total (i := i) hcap hlen
  exact ⟨emit o u, exec_of_does hd⟩

end Sys2Proof.Machine
end

section
/-! SUPPORT. The encoding family (`30_encoding.md`): the decoder by the two fields of a word (R74 to R77), the lines
of text (R84), and the legality table read back as the pairs it marks (R78). -/

namespace Sys2Proof

/-! ## The decoder by its two fields -/

/-- A word that holds the code of `i`, and the operand too where `i` has one, decodes to `i`. -/
theorem decode_of_fields {w : CmdWord} {i : Instr} (ho : opField w = opcode i)
    (hd : ∀ b, i = .push b → dataField w = b) : decode w = i := by
  cases i with
  | push b => rw [← hd b rfl]; simp [decode, ho, opcode]
  | _ => simp [decode, ho, opcode]

/-- The decoder neither loses nor changes the code, R75 and R77. -/
theorem opcode_decode (w : CmdWord) : opcode (decode w) = opField w := by
  rcases opcode_cases (opField w) with h | h | h | h | h | h | h | h | h | h | h | h | h | h | h | h <;>
    simp [decode, h, opcode]

/-- The operand of a PUSH is the `data` field, R76. -/
theorem dataField_of_decode_push {w : CmdWord} {b : Byte} (h : decode w = .push b) : dataField w = b := by
  have ho : opField w = opcode (.push (dataField w)) := by rw [← opcode_decode, h]; rfl
  have hp : decode w = .push (dataField w) := decode_of_fields ho fun _ => Instr.push.inj
  exact Instr.push.inj (hp.symm.trans h)

/-- A word is the code of its command, followed by its `data` field. -/
theorem opcode_decode_append_dataField (w : CmdWord) : opcode (decode w) ++ dataField w = w := by
  rw [opcode_decode, append_fields]

/-! ## The encoder -/

theorem decode_encode (i : Instr) : decode (encode i) = i := by
  refine decode_of_fields (opField_append _ _) ?_
  rintro b rfl
  exact dataField_append _ _

/-- Every command but PUSH is encoded with the `data` field 0 (R76). -/
theorem operandByte_of_not_push {i : Instr} (h : ∀ b, i ≠ .push b) : operandByte i = 0#8 := by
  cases i with
  | push b => exact absurd rfl (h b)
  | _ => rfl

theorem encode_decode_of_push {w : CmdWord} {b : Byte} (h : decode w = .push b) : encode (decode w) = w := by
  have hb : operandByte (decode w) = dataField w := by rw [dataField_of_decode_push h, h]; rfl
  rw [encode, hb, opcode_decode_append_dataField]

theorem encode_decode_of_not_push {w : CmdWord} (h : ∀ b, decode w ≠ .push b) :
    encode (decode w) = w &&& 0xF00#12 := by
  rw [encode, operandByte_of_not_push h, opcode_decode, mask_op]

/-- Settles O3: decoding undoes encoding, and the other way round by whether the word is a PUSH. -/
theorem decodeAndEncodeAgree : Obligations.DecodeAndEncodeAgree := by
  refine ⟨decode_encode, fun w => ⟨dataField w, (opcode_decode_append_dataField w).symm, ?_⟩⟩
  by_cases hp : ∃ b, decode w = .push b
  · obtain ⟨b, hb⟩ := hp
    exact .inl (encode_decode_of_push hb)
  · have hn : ∀ b, decode w ≠ .push b := not_exists.mp hp
    exact .inr ⟨hn, encode_decode_of_not_push hn⟩

/-! ## The opcode table -/

/-- The row of `i`, with code `c`, in the opcode table: under the mask, exactly the words of its code decode to it, once
the operand is the right one. -/
theorem mask_eq_iff_decode (w : CmdWord) (c : BitVec 4) {i : Instr} (hc : opcode i = c)
    (hd : ∀ b, i = .push b → dataField w = b) : w &&& 0xF00#12 = c ++ 0#8 ↔ decode w = i := by
  rw [mask_eq_iff, ← hc]
  constructor
  · exact fun ho => decode_of_fields ho hd
  · rintro rfl
    exact (opcode_decode w).symm

/-- Settles O1: each row is `mask_eq_iff_decode` at its code, and only PUSH's reads the `data` field. -/
theorem opcodeTableRowsDecode : Obligations.OpcodeTableRowsDecode := fun w =>
  ⟨mask_eq_iff_decode w 0x0#4 rfl nofun, mask_eq_iff_decode w 0x1#4 rfl nofun,
    mask_eq_iff_decode w 0x2#4 rfl fun _ => Instr.push.inj, mask_eq_iff_decode w 0x3#4 rfl nofun,
    mask_eq_iff_decode w 0x4#4 rfl nofun, mask_eq_iff_decode w 0x5#4 rfl nofun,
    mask_eq_iff_decode w 0x6#4 rfl nofun, mask_eq_iff_decode w 0x7#4 rfl nofun,
    mask_eq_iff_decode w 0x8#4 rfl nofun, mask_eq_iff_decode w 0x9#4 rfl nofun,
    mask_eq_iff_decode w 0xA#4 rfl nofun, mask_eq_iff_decode w 0xB#4 rfl nofun,
    mask_eq_iff_decode w 0xC#4 rfl nofun, mask_eq_iff_decode w 0xD#4 rfl nofun,
    mask_eq_iff_decode w 0xE#4 rfl nofun, mask_eq_iff_decode w 0xF#4 rfl nofun⟩

/-- Settles O2, by evaluating the decoder on the ten words. -/
theorem sampleWordsDecode : Obligations.SampleWordsDecode := by
  unfold Obligations.SampleWordsDecode
  decide

namespace Machine

/-- Settles O21: the code 0xF is the reserved code's alone, and the legality table rejects it in every state. -/
theorem reservedCodeIsRejected : Obligations.ReservedCodeIsRejected := by
  refine ⟨fun d => decode_of_fields (opField_append _ d) nofun, fun w hw => ?_, fun _ => exec_of_reject rfl⟩
  have ho : opField w = opcode .reservedF := by rw [← opcode_decode, hw]
  exact ho

/-! ## Lines of text (R84) -/

theorem lineInstr_of_not_wf {l : Line} (h : l.wf = false) : lineInstr l = none := by
  simp [lineInstr, h]

/-- The operand that a well-formed PUSH must have is the one its command needs. -/
theorem lineInstr_isSome_of_wf {l : Line} (h : l.wf = true) : (lineInstr l).isSome = true := by
  rw [lineInstr, if_pos h]
  obtain ⟨m, operand⟩ := l
  cases m with
  | PUSH =>
    cases operand with
    | none => simp [Line.wf] at h
    | some b => rfl
  | _ => rfl

theorem lineInstr_isSome (l : Line) : (lineInstr l).isSome = l.wf := by
  cases h : l.wf with
  | false => rw [lineInstr_of_not_wf h]; rfl
  | true => exact lineInstr_isSome_of_wf h

theorem lineInstr_push {b : Nat} (h : b < 256) : lineInstr ⟨.PUSH, some b⟩ = some (.push (BitVec.ofNat 8 b)) := by
  simp [lineInstr, Line.wf, h]

/-- Settles O4: the three texts and their words by evaluation, the lines by `lineInstr`. -/
theorem textLinesAssemble : Obligations.TextLinesAssemble :=
  ⟨by decide, by decide, by decide, by decide, by decide, by decide, lineInstr_isSome, fun _ => lineInstr_push⟩

/-! ## The legality table (R78) -/

@[simp] theorem execOnlyIf_eq_reject {b : Bool} : execOnlyIf b = .reject ↔ b = false := by
  cases b <;> simp [execOnlyIf]

@[simp] theorem execOnlyIf_ne_ignore (b : Bool) : execOnlyIf b ≠ .ignore := by
  cases b <;> simp [execOnlyIf]

@[simp] theorem eventLegality_ne_reject (st : Fsm) : eventLegality st ≠ .reject := by
  unfold eventLegality; split <;> simp

@[simp] theorem eventLegality_eq_ignore {st : Fsm} : eventLegality st = .ignore ↔ st ≠ .reading := by
  unfold eventLegality; split <;> simp_all

/-- The states that are no terminal state, R18. -/
theorem Fsm.isTerminal_eq_false {st : Fsm} : st.isTerminal = false ↔ st ∈ [Fsm.idle, .reading, .stopped] := by
  cases st <;> simp [Fsm.isTerminal]

/-- The pairs the table marks *reject*. -/
theorem legality_eq_reject {i : Instr} {st : Fsm} :
    legality i st = .reject ↔
      (i = .start ∧ st ≠ .idle) ∨ (((∃ b, i = .push b) ∨ i = .scan) ∧ st ≠ .reading) ∨
      (i = .next ∧ st ∈ [Fsm.idle, Fsm.reading, Fsm.stopped]) ∨ i = .reservedF := by
  cases i <;> simp [legality, Fsm.isTerminal_eq_false]

/-- The pairs the table marks *ignore*: a device event outside Reading (R181). -/
theorem legality_eq_ignore {i : Instr} {st : Fsm} :
    legality i st = .ignore ↔
      i ∈ [Instr.evFifoOvf, Instr.evBufFull, Instr.evBreak, Instr.evParity, Instr.evFrame] ∧ st ≠ .reading := by
  cases i <;> simp [legality]

/-- Only a pair marked *reject* answers `reject = 1`. -/
theorem Does.reject_eq_false {i : Instr} {s u : State} {o : Out} (hd : Does i s o u)
    (h : legality i s.state ≠ .reject) : o.reject = false := by
  cases hd with
  | rejected hr => exact absurd hr h
  | _ => rfl

/-- Settles O22: the table's two marks with what each does, and the record of a command that is not rejected. -/
theorem legalityTableHolds : Obligations.LegalityTableHolds := by
  intro i s
  refine ⟨fun hr => exec_of_reject (legality_eq_reject.mpr hr), fun hi => exec_of_ignore (legality_eq_ignore.mpr hi),
    fun hn t ht => ?_⟩
  obtain ⟨o, u, hd, rfl⟩ := exec_eq_next ht
  exact ⟨o, congrArg (o :: ·) hd.trace_eq, hd.reject_eq_false (mt legality_eq_reject.mp hn)⟩

end Machine

end Sys2Proof
end

section
/-! SUPPORT. The frame-buffer family (`40_frame_buffer.md`): the two cases of a PUSH (R102, R103), the SCAN after an
overflow, and the window after any number of pushes (R105). -/

namespace Sys2Proof.Machine

/-! ## One PUSH -/

theorem cap_pos_of_wf {p : Params} (h : p.wf) : 0 < p.cap := Nat.lt_of_lt_of_le (by decide) h.1

/-- PUSH with room, R102: the byte is stored at the write pointer and extends the window. -/
theorem exec_push_room {s : State} (hr : s.state = .reading) (hroom : s.len < s.cfg.cap) (b : Byte) :
    exec (.push b) s = .next (emit Out.quiet (afterPush false s.len (setCell s.len b s))) := by
  have hne : s.len ≠ s.cfg.cap := Nat.ne_of_lt hroom
  have hd := exec_of_does (.push (b := b) hr (by rwa [pushAddress_room hne]))
  rwa [pushAddress_room hne, Bool.eq_false_iff.mpr (mt (bufFull_iff s).mp hne)] at hd

/-- PUSH on a full buffer, R103: the byte is stored at 0 and is all there is in the window. -/
theorem exec_push_full {s : State} (hr : s.state = .reading) (hcap : 0 < s.cfg.cap) (hfull : s.len = s.cfg.cap)
    (b : Byte) :
    exec (.push b) s = .next (emit { buf_overflow := true } (afterPush true 0 (setCell 0 b s))) := by
  have hd := exec_of_does (.push (b := b) hr (by rwa [pushAddress_full hfull]))
  rwa [pushAddress_full hfull, (bufFull_iff s).mpr hfull] at hd

theorem exec_push_of_not_reading {s : State} (hn : s.state ≠ .reading) (b : Byte) :
    exec (.push b) s = .next (emit Out.rejected s) :=
  exec_of_reject (legality_eq_reject.mpr (.inr (.inl ⟨.inl ⟨b, rfl⟩, hn⟩)))

/-- Without an overflow only the write pointer moves. -/
theorem afterPush_false (a : Nat) (s : State) : afterPush false a s = { s with len := a + 1 } := by
  simp [afterPush]

theorem afterPush_true (a : Nat) (s : State) : afterPush true a s = { s with len := a + 1, ovf := true } := by
  simp [afterPush]

/-- Settles O7: the decoder undoes the encoder, and PUSH with room leaves `ovf` as it was. -/
theorem pushAppendsItsByte : Obligations.PushAppendsItsByte := by
  refine ⟨fun b => decode_encode (.push b), fun s b hr hroom => ?_, fun _ b hn => exec_push_of_not_reading hn b⟩
  rw [exec_push_room hr hroom, afterPush_false]
  rfl

/-! ## The SCAN after an overflow -/

/-- A failure found by SCAN is taken by the failure path, whether or not it escalates (R155, R196). -/
theorem exec_scan_of_failed {s : State} {c : Failure} (hr : s.state = .reading) (ho : outcome s = .ok (.failed c)) :
    exec .scan s = .next (raiseFailure c s) := by
  cases he : escalates s with
  | false => rw [exec_of_does (.scanFailed hr ho he), raiseFailure, he]; rfl
  | true => rw [exec_of_does (.scanEscalated hr ho he), raiseFailure, he]; rfl

/-- The first test of R194 looks at `ovf` alone. -/
theorem outcome_of_ovf {s : State} (h : s.ovf = true) : outcome s = .ok (.failed .bufferOverflow) := if_pos h

/-- Settles O8: PUSH on a full buffer restarts it at index 0, and `ovf` decides the SCAN before the window is read. -/
theorem pushOnFullBufferRestartsIt : Obligations.PushOnFullBufferRestartsIt := by
  refine ⟨fun b => decode_encode (.push b), fun s b hr hwf hfull => ?_, fun _ b hn => exec_push_of_not_reading hn b,
    fun s hr hovf => ?_⟩
  · rw [exec_push_full hr (cap_pos_of_wf hwf) hfull, afterPush_true]
    rfl
  · exact ⟨_, exec_scan_of_failed hr (outcome_of_ovf hovf), raiseFailure_state _ s, raiseFailure_err _ s⟩

/-! ## Counting overflows -/

/-- How often `n` pushes into an empty buffer of `cap` cells overflow it (R105 (b)): a buffer's worth of bytes is lost
each time, by the byte that comes after them. -/
def overflows (cap n : Nat) : Nat := (n - 1) / cap

theorem overflows_eq_zero {cap n : Nat} (hcap : 0 < cap) (h : n ≤ cap) : overflows cap n = 0 :=
  Nat.div_eq_of_lt (by omega)

theorem overflows_pos {cap n : Nat} (hcap : 0 < cap) (h : cap < n) : 0 < overflows cap n :=
  Nat.div_pos (by omega) hcap

/-- The bytes lost are no more than those pushed before the last. -/
theorem overflows_mul_le (cap n : Nat) : overflows cap n * cap ≤ n - 1 := Nat.div_mul_le_self _ _

/-- What is not lost fits the buffer. -/
theorem le_overflows_mul_add (cap n : Nat) (hcap : 0 < cap) : n ≤ overflows cap n * cap + cap := by
  have h : n - 1 < overflows cap n * cap + cap := Nat.lt_div_mul_add hcap
  omega

/-- One more byte when the buffer is not full causes no overflow. -/
theorem overflows_succ_of_room {cap n : Nat} (h : n < overflows cap n * cap + cap) :
    overflows cap (n + 1) = overflows cap n := by
  have hlow := overflows_mul_le cap n
  exact Nat.div_eq_of_lt_le (by omega) (by rw [Nat.succ_mul]; omega)

/-- One more byte when the buffer is full overflows it. -/
theorem overflows_succ_of_full {cap n : Nat} (hcap : 0 < cap) (h : n = overflows cap n * cap + cap) :
    overflows cap (n + 1) = overflows cap n + 1 := by
  have hn : n = (overflows cap n + 1) * cap := by rwa [Nat.succ_mul]
  calc overflows cap (n + 1) = n / cap := rfl
    _ = (overflows cap n + 1) * cap / cap := congrArg (· / cap) hn
    _ = overflows cap n + 1 := Nat.mul_div_cancel _ hcap

/-- The number of bytes lost, in the terms of R105 (b). -/
theorem overflows_mul_eq {cap n : Nat} (hn : 0 < n) : overflows cap n * cap = n - ((n - 1) % cap + 1) := by
  have h : overflows cap n * cap + (n - 1) % cap = n - 1 := Nat.div_add_mod' _ _
  omega

/-! ## Any number of pushes -/

theorem overflowPulses_cons (o : Out) (os : List Out) :
    overflowPulses (o :: os) = overflowPulses os + if o.buf_overflow then 1 else 0 :=
  List.countP_cons

/-- `t` is what pushing `bs` makes of `s`, a state in Reading with an empty buffer: the flag, the pulses and the bytes
that are gone from the window are all told by the number of overflows. -/
structure Pushed (s : State) (bs : List Byte) (t : State) : Prop where
  reading : t.state = .reading
  cfg : t.cfg = s.cfg
  window : window t = bs.drop (overflows s.cfg.cap bs.length * s.cfg.cap)
  ovf : t.ovf = (s.ovf || decide (0 < overflows s.cfg.cap bs.length))
  pulses : overflowPulses t.trace = overflowPulses s.trace + overflows s.cfg.cap bs.length

theorem Pushed.nil {s : State} (hr : s.state = .reading) (hl : s.len = 0) : Pushed s [] s where
  reading := hr
  cfg := rfl
  window := by simp [window_empty hl]
  ovf := by simp [overflows]
  pulses := by simp [overflows]

/-- The write pointer counts the bytes that are not lost. -/
theorem Pushed.len {s t : State} {bs : List Byte} (h : Pushed s bs t) :
    t.len = bs.length - overflows s.cfg.cap bs.length * s.cfg.cap := by
  rw [← window_length t, h.window, List.length_drop]

/-- A PUSH with room loses nothing (R102). -/
theorem Pushed.push_room {s t : State} {bs : List Byte} (h : Pushed s bs t) (hroom : t.len < t.cfg.cap) (b : Byte) :
    Pushed s (bs ++ [b]) (emit Out.quiet (afterPush false t.len (setCell t.len b t))) := by
  have hlost := overflows_mul_le s.cfg.cap bs.length
  have hq : overflows s.cfg.cap (bs ++ [b]).length = overflows s.cfg.cap bs.length := by
    rw [h.len, h.cfg] at hroom
    rw [List.length_append]
    exact overflows_succ_of_room (by omega)
  refine { reading := h.reading, cfg := h.cfg, window := ?_, ovf := ?_, pulses := ?_ }
  · rw [hq, List.drop_append_of_le_length (by omega), ← h.window]
    exact window_append false b t
  · rw [hq, ← h.ovf]
    exact Bool.or_false _
  · rw [hq, ← h.pulses]
    exact overflowPulses_cons Out.quiet t.trace

/-- A PUSH on a full buffer loses all that was in it (R103). -/
theorem Pushed.push_full {s t : State} {bs : List Byte} (h : Pushed s bs t) (hcap : 0 < s.cfg.cap)
    (hfull : t.len = t.cfg.cap) (b : Byte) :
    Pushed s (bs ++ [b]) (emit { buf_overflow := true } (afterPush true 0 (setCell 0 b t))) := by
  have hn : bs.length = overflows s.cfg.cap bs.length * s.cfg.cap + s.cfg.cap := by
    rw [h.len, h.cfg] at hfull
    omega
  have hq : overflows s.cfg.cap (bs ++ [b]).length = overflows s.cfg.cap bs.length + 1 := by
    rw [List.length_append]
    exact overflows_succ_of_full hcap hn
  refine { reading := h.reading, cfg := h.cfg, window := ?_, ovf := ?_, pulses := ?_ }
  · rw [hq, Nat.succ_mul, ← hn, List.drop_left]
    exact window_restart true b t
  · rw [hq, decide_eq_true (Nat.succ_pos _), Bool.or_true]
    exact Bool.or_true _
  · rw [hq, ← Nat.add_assoc, ← h.pulses]
    exact overflowPulses_cons { buf_overflow := true } t.trace

/-- One more PUSH completes: the write pointer never passes the end of the buffer. -/
theorem Pushed.push {s t : State} {bs : List Byte} (h : Pushed s bs t) (hcap : 0 < s.cfg.cap) (b : Byte) :
    ∃ u, exec (.push b) t = .next u ∧ Pushed s (bs ++ [b]) u := by
  have hle : t.len ≤ t.cfg.cap := by
    have hfit := le_overflows_mul_add s.cfg.cap bs.length hcap
    rw [h.len, h.cfg]
    omega
  rcases hle.eq_or_lt with hfull | hroom
  · exact ⟨_, exec_push_full h.reading (by rwa [h.cfg]) hfull b, h.push_full hcap hfull b⟩
  · exact ⟨_, exec_push_room h.reading hroom b, h.push_room hroom b⟩

/-- Pushing any bytes completes, by induction on the last of them. -/
theorem runCommands_appendCmds {s : State} (hcap : 0 < s.cfg.cap) (hr : s.state = .reading) (hl : s.len = 0)
    (bs : List Byte) : ∃ t, runCommands (appendCmds bs) s = .next t ∧ Pushed s bs t := by
  induction bs using List.reverseRecOn with
  | nil => exact ⟨s, rfl, .nil hr hl⟩
  | append_singleton bs b ih =>
    obtain ⟨t, ht, hp⟩ := ih
    obtain ⟨u, hu, hpu⟩ := hp.push hcap b
    refine ⟨u, ?_, hpu⟩
    calc runCommands (appendCmds (bs ++ [b])) s
        = runCommands (appendCmds bs ++ [.push b]) s := by simp [appendCmds]
      _ = runCommands [.push b] t := runCommands_append ht
      _ = .next u := runCommands_cons hu []

/-- Settles O49: with the number of overflows known, no overflow means no byte lost and `ovf` as it was, and at least
one means `ovf` set and the bytes lost as R105 (b) counts them. -/
theorem windowAfterPushes : Obligations.WindowAfterPushes := by
  intro bs s hwf hr hl
  have hcap := cap_pos_of_wf hwf
  obtain ⟨t, ht, hp⟩ := runCommands_appendCmds hcap hr hl bs
  refine ⟨t, ht, hp.reading, fun hle => ?_, fun hgt => ?_, hp.pulses⟩
  · have hzero := overflows_eq_zero hcap hle
    exact ⟨by simp [hp.window, hzero], by simp [hp.ovf, hzero]⟩
  · have hpos := overflows_pos hcap hgt
    exact ⟨by simp [hp.ovf, hpos], by rw [hp.window, overflows_mul_eq (by omega)]⟩

end Sys2Proof.Machine
end

section
/-! SUPPORT. The synchronizer family (`41_frame_sync.md`): the candidates as the hardware walks over them (R112), the
selection as a search and as a maximum (R116, R118), and the streaming detector with what it keeps (R118). -/

namespace Sys2Proof.Machine

/-! ## The candidates and the walk over them -/

theorem candidates_length_le (w : List Byte) : (candidates w).length ≤ w.length - 23 := by
  calc (candidates w).length
      ≤ (List.range (w.length + 1 - Config.FRAME_LEN)).reverse.length := List.length_filter_le _ _
    _ = w.length - 23 := by simp only [List.length_reverse, List.length_range, Config.FRAME_LEN]; omega

/-- Settles O39: membership is R110, the list is a filtered descending range, and below 24 bytes the bound on its
length is 0. -/
theorem candidatesAreTheHeaderOffsets : Obligations.CandidatesAreTheHeaderOffsets := by
  intro w
  refine ⟨fun i => (mem_candidates w i).trans (cand_iff w i), candidates_sorted w, candidates_length_le w, fun h => ?_⟩
  have hle := candidates_length_le w
  exact List.length_eq_zero_iff.mp (by omega)

/-- Where a whole frame's length is left, the walk's test of the two header bytes is the test of R110. -/
theorem cand_eq_header {w : List Byte} {i : Nat} (h : i + 24 ≤ w.length) :
    cand w i = (w[i]? == some Config.HDR0 && w[i + 1]? == some Config.HDR1) := by
  simp [cand, h]

/-- The loop of R112 from `i` down finds the candidates among `0 .. i`, highest first. -/
theorem walkFrom_eq_filter {w : List Byte} {i : Nat} (h : i + 24 ≤ w.length) :
    walkFrom w i = (List.range (i + 1)).reverse.filter (cand w) := by
  induction i with
  | zero => simp [walkFrom, cand_eq_header h, List.filter_singleton]
  | succ j ih =>
    rw [walkFrom, ih (by omega), ← cand_eq_header h, List.range_succ (n := j + 1), List.reverse_append,
      List.reverse_singleton, List.singleton_append, List.filter_cons]
    split <;> rfl

/-- Settles O40: from offset `len - 24` the walk covers every offset with a frame's length left; below 24 bytes there
is none, and no walk. -/
theorem hardwareWalkFindsTheCandidates : Obligations.HardwareWalkFindsTheCandidates := by
  intro w
  unfold walk candidates
  simp only [Config.FRAME_LEN]
  split
  · rw [walkFrom_eq_filter (by omega), show w.length - 24 + 1 = w.length + 1 - 24 by omega]
  · rw [show w.length + 1 - 24 = 0 by omega]
    rfl

/-! ## The selection as a search and as a maximum -/

/-- Trying a candidate keeps its offset if its frame validates. -/
theorem tryCandidate_map_fst (w : List Byte) (i : Nat) :
    (tryCandidate w i).map Prod.fst = Option.guard (fun j => (frame w j).any validate) i := by
  rw [Option.guard, ← tryCandidate_isSome]
  rcases h : tryCandidate w i with _ | p
  · rfl
  · exact congrArg some (tryCandidate_eq_some.mp h).1

/-- Settles O41: to try the candidates in order and keep the offset of the first success is to search for it. -/
theorem firstValidIsFirstInScanOrder : Obligations.FirstValidIsFirstInScanOrder := by
  intro w
  rw [firstValid, selected, List.map_findSome?, List.find?_eq_findSome?_guard]
  exact congrArg (List.findSome? · (candidates w)) (funext (tryCandidate_map_fst w))

/-- In a descending list the first element with a property is the greatest one that has it. -/
theorem find?_eq_some_iff_greatest {l : List Nat} (hl : l.Pairwise (fun i j => j < i)) (p : Nat → Bool) (i : Nat) :
    l.find? p = some i ↔ (i ∈ l ∧ p i = true) ∧ ∀ j, i < j → ¬ (j ∈ l ∧ p j = true) := by
  induction l with
  | nil => simp
  | cons a l ih =>
    obtain ⟨ha, hl⟩ := List.pairwise_cons.mp hl
    by_cases hpa : p a = true
    · rw [List.find?_cons_of_pos hpa, Option.some.injEq]
      constructor
      · rintro rfl
        refine ⟨⟨List.mem_cons_self, hpa⟩, ?_⟩
        rintro j hlt ⟨hj, -⟩
        rcases List.mem_cons.mp hj with rfl | hj
        · exact lt_irrefl j hlt
        · exact lt_asymm hlt (ha j hj)
      · rintro ⟨⟨hi, -⟩, hgreatest⟩
        rcases List.mem_cons.mp hi with rfl | hi
        · rfl
        · exact absurd ⟨List.mem_cons_self, hpa⟩ (hgreatest a (ha i hi))
    · have hskip : ∀ j, (j ∈ a :: l ∧ p j = true) ↔ (j ∈ l ∧ p j = true) := by
        refine fun j => and_congr_left fun hpj => ?_
        have hne : j ≠ a := by rintro rfl; exact hpa hpj
        simp [hne]
      rw [List.find?_cons_of_neg hpa, ih hl]
      simp only [hskip]

theorem firstValid_eq_some_iff (w : List Byte) (i : Nat) :
    firstValid w = some i ↔
      (cand w i = true ∧ (frame w i).any validate = true) ∧
        ∀ j, i < j → ¬ (cand w j = true ∧ (frame w j).any validate = true) := by
  rw [firstValidIsFirstInScanOrder w, find?_eq_some_iff_greatest (candidates_sorted w)]
  simp only [mem_candidates]

theorem firstValid_eq_none_iff (w : List Byte) :
    firstValid w = none ↔ ∀ j, ¬ (cand w j = true ∧ (frame w j).any validate = true) := by
  rw [firstValid, Option.map_eq_none_iff, selected_eq_none]
  simp only [not_and, Bool.not_eq_true]

/-! ## The streaming detector -/

/-- What stands at `i` of the window stands at 0 once the `i` bytes before it are dropped. -/
theorem cand_drop (w : List Byte) (i : Nat) : cand (w.drop i) 0 = cand w i := by
  rw [Bool.eq_iff_iff, cand_iff, cand_iff, List.getElem?_drop, List.getElem?_drop, List.length_drop]
  exact and_congr_left' (by omega)

theorem frame_drop (w : List Byte) (i : Nat) : frame (w.drop i) 0 = frame w i := rfl

theorem candSeen_snoc (w : List Byte) (b : Byte) :
    candSeen (w ++ [b]) = (candSeen w || cand (w ++ [b]) (w.length + 1 - 24)) := by
  unfold candSeen
  rw [candidates_snoc]
  cases cand (w ++ [b]) (w.length + 1 - 24) <;> simp

theorem firstValid_snoc (w : List Byte) (b : Byte) :
    firstValid (w ++ [b]) =
      if cand (w ++ [b]) (w.length + 1 - 24) && (frame (w ++ [b]) (w.length + 1 - 24)).any validate then
        some (w.length + 1 - 24)
      else firstValid w := by
  unfold firstValid
  rw [selected_snoc]
  generalize w.length + 1 - 24 = i
  cases cand (w ++ [b]) i
  · rfl
  · rw [if_pos rfl, Option.map_or, tryCandidate_map_fst, Option.guard, Bool.true_and]
    split <;> rfl

/-- What the streaming detector has to hold after the bytes of `w`. -/
def streamAfter (w : List Byte) : StreamState :=
  { recent := w.drop (w.length - 23), count := w.length, last := firstValid w, seen := candSeen w }

/-- The last 23 bytes and the arriving one end where the longer window ends. -/
theorem recent_snoc (w : List Byte) (b : Byte) :
    w.drop (w.length - 23) ++ [b] = (w ++ [b]).drop (w.length + 1 - 24) := by
  rw [List.drop_append_of_le_length (by omega), show w.length + 1 - 24 = w.length - 23 by omega]

/-- Of the 24 bytes looked at, the detector keeps the last 23; of fewer, all. -/
theorem recent_step (w : List Byte) (b : Byte) :
    (if ((w ++ [b]).drop (w.length + 1 - 24)).length < 24 then (w ++ [b]).drop (w.length + 1 - 24)
      else ((w ++ [b]).drop (w.length + 1 - 24)).drop 1) =
    (w ++ [b]).drop ((w ++ [b]).length - 23) := by
  rw [List.drop_drop]
  simp only [List.length_drop, List.length_append, List.length_singleton]
  split <;> congr 1 <;> omega

/-- One arriving byte takes the detector from what it holds after `w` to what it holds after the longer window: the
24-byte frame it checks is the one candidate the byte can bring. -/
theorem streamStep_streamAfter (w : List Byte) (b : Byte) :
    streamStep (streamAfter w) b = streamAfter (w ++ [b]) := by
  unfold streamStep streamAfter
  simp only [Config.FRAME_LEN, recent_snoc, recent_step, tryCandidate_isSome, cand_drop, frame_drop, firstValid_snoc,
    candSeen_snoc, List.length_append, List.length_singleton]

theorem stream_eq_streamAfter (w : List Byte) : stream w = streamAfter w := by
  induction w using List.reverseRecOn with
  | nil => rfl
  | append_singleton w b ih =>
    calc stream (w ++ [b])
        = streamStep (stream w) b := List.foldl_concat ..
      _ = streamAfter (w ++ [b]) := by rw [ih, streamStep_streamAfter]

/-- Settles O42: the candidates descend, so the first valid one is the greatest; and after every byte the detector
holds the selection and `cand_seen` of the bytes so far. -/
theorem streamingDetectorAgrees : Obligations.StreamingDetectorAgrees := by
  intro w
  refine ⟨firstValid_eq_some_iff w, firstValid_eq_none_iff w, ?_⟩
  rw [stream_eq_streamAfter]
  exact ⟨rfl, rfl⟩

end Sys2Proof.Machine
end

section
/-! SUPPORT. The validator family (`42_checksum.md`): the validator in plain numbers (R122), the bounds of the sum
(R124), and what a change of bytes does to it (R125). -/

namespace Sys2Proof.Machine

/-! ## The validator in plain numbers -/

/-- `sum(f)` as the statements write it, over the 22 offsets it covers (R120, R124 (a)). -/
theorem sum_toNat_eq_finset_sum (f : RawFrame) :
    (sum f).toNat = ∑ k : Fin 22, (f.byte (k.castLE (by decide))).toNat :=
  (sum_toNat f).trans (sum_bytes_eq f)

/-- R122 with the stored checksum read from its two bytes. -/
theorem validate_iff_toNat (f : RawFrame) :
    validate f = true ↔ f.byte 0 = 0x42#8 ∧ f.byte 1 = 0x4D#8 ∧
      (sum f).toNat = (f.byte 22).toNat * 256 + (f.byte 23).toNat := by
  rw [validate_iff, ← BitVec.toNat_inj (x := sum f), RawFrame.stored, be16_toNat]

/-- Settles O43: the sum is a 16-bit value, so reducing it modulo 65536 changes nothing. -/
theorem validateIsHeaderAndSum : Obligations.ValidateIsHeaderAndSum := by
  intro f
  rw [validate_iff_toNat, ← sum_toNat_eq_finset_sum, Nat.mod_eq_of_lt (sum f).isLt]

/-- Storing the checksum keeps the header, so the frame validates. -/
theorem validate_withChecksum {f : RawFrame} (h0 : f.byte 0 = 0x42#8) (h1 : f.byte 1 = 0x4D#8) :
    validate (withChecksum f) = true := by
  have hheader : headerMatches (withChecksum f) = true := by
    rw [headerMatches_iff, withChecksum_byte f (by decide), withChecksum_byte f (by decide)]
    exact ⟨h0, h1⟩
  rw [validate, hheader, checksumMatches_withChecksum, Bool.and_self]

/-- Settles O57: its first half is R122 from right to left; the second is the frame once its checksum is stored. -/
theorem wellFormedFramesValidate : Obligations.WellFormedFramesValidate :=
  ⟨fun f h0 h1 hsum => (validate_iff_toNat f).mpr ⟨h0, h1, hsum.symm⟩,
    fun f h0 h1 => ⟨validate_withChecksum h0 h1, fun _ => withChecksum_byte f⟩⟩

/-! ## The bounds of the sum -/

/-- R124 (a): 22 bytes of at most 255. -/
theorem sum_toNat_le (f : RawFrame) : (sum f).toNat ≤ 5610 := by
  rw [sum_toNat]
  refine (sum_bytes_le _).trans ?_
  have := List.length_take_le 22 f.bytes
  omega

/-- The two header bytes, and the 20 bytes the sum covers after them. -/
theorem sum_toNat_eq_header_add (f : RawFrame) :
    (sum f).toNat =
      (f.byte 0).toNat + ((f.byte 1).toNat + ∑ k : Fin 20, (f.byte (k.succ.succ.castLE (by decide))).toNat) := by
  rw [sum_toNat_eq_finset_sum, Fin.sum_univ_succ, Fin.sum_univ_succ]
  rfl

/-- R124 (b): the header bytes are fixed, and the 20 bytes after them are at most 255 each. -/
theorem sum_bounds_of_header {f : RawFrame} (h0 : f.byte 0 = 0x42#8) (h1 : f.byte 1 = 0x4D#8) :
    143 ≤ (sum f).toNat ∧ (sum f).toNat ≤ 5243 := by
  have hrest : ∑ k : Fin 20, (f.byte (k.succ.succ.castLE (by decide))).toNat ≤ 20 * 255 := by
    simpa using Finset.sum_le_card_nsmul (Finset.univ : Finset (Fin 20)) _ 255 fun k _ =>
      Nat.le_of_lt_succ (f.byte (k.succ.succ.castLE (by decide))).isLt
  rw [sum_toNat_eq_header_add, h0, h1, BitVec.toNat_ofNat, BitVec.toNat_ofNat]
  omega

/-- Settles O44: a validating frame has the header and stores its sum, so the sum's bounds are those of the stored
value. -/
theorem sumStaysInBounds : Obligations.SumStaysInBounds := by
  intro f
  refine ⟨sum_toNat_eq_finset_sum f, sum_toNat_le f, sum_bounds_of_header, fun hvalid => ?_⟩
  obtain ⟨h0, h1, hstored⟩ := (validate_iff f).mp hvalid
  obtain ⟨hlow, hhigh⟩ := sum_bounds_of_header h0 h1
  rw [hstored] at hlow hhigh
  refine ⟨hlow, hhigh, ?_⟩
  rw [RawFrame.stored, be16_toNat] at hhigh
  omega

/-! ## Changes of bytes -/

/-- The sum depends on bytes 0..21 only (R120). -/
theorem sum_eq_of_bytes_eq {f g : RawFrame} (h : ∀ k : Fin 24, k.val < 22 → g.byte k = f.byte k) :
    sum g = sum f := by
  apply BitVec.eq_of_toNat_eq
  rw [sum_toNat_eq_finset_sum, sum_toNat_eq_finset_sum]
  exact Finset.sum_congr rfl fun k _ => congrArg BitVec.toNat (h _ k.isLt)

/-- A change of one summed byte changes the sum: the other 21 bytes add up to the same (R125). -/
theorem byte_eq_of_sum_eq {f g : RawFrame} {k : Fin 24} (hk : k.val < 22)
    (hother : ∀ j, j ≠ k → g.byte j = f.byte j) (hsum : sum g = sum f) : g.byte k = f.byte k := by
  have hrest : ∑ j ∈ Finset.univ.erase (⟨k, hk⟩ : Fin 22), (g.byte (j.castLE (by decide))).toNat =
      ∑ j ∈ Finset.univ.erase (⟨k, hk⟩ : Fin 22), (f.byte (j.castLE (by decide))).toNat := by
    refine Finset.sum_congr rfl fun j hj => congrArg BitVec.toNat (hother _ fun hjk => ?_)
    have hval : j.val = k.val := congrArg Fin.val hjk
    exact Finset.ne_of_mem_erase hj (Fin.ext hval)
  have htotal := congrArg BitVec.toNat hsum
  rw [sum_toNat_eq_finset_sum, sum_toNat_eq_finset_sum, ← Finset.add_sum_erase _ _ (Finset.mem_univ ⟨k, hk⟩),
    ← Finset.add_sum_erase _ _ (Finset.mem_univ ⟨k, hk⟩), hrest] at htotal
  exact BitVec.eq_of_toNat_eq (Nat.add_right_cancel htotal)

/-- Two validating frames that agree in bytes 0..21 store the same checksum, so they are one frame (R125). -/
theorem eq_of_validate_of_bytes_eq {f g : RawFrame} (hf : validate f = true) (hg : validate g = true)
    (h : ∀ k : Fin 24, k.val < 22 → g.byte k = f.byte k) : g = f := by
  obtain ⟨-, -, hsf⟩ := (validate_iff f).mp hf
  obtain ⟨-, -, hsg⟩ := (validate_iff g).mp hg
  obtain ⟨h22, h23⟩ := be16_injective (hsg.symm.trans ((sum_eq_of_bytes_eq h).trans hsf))
  apply RawFrame.ext_bytes
  intro k
  by_cases hk : k.val < 22
  · exact h k hk
  · obtain rfl | rfl : k = 22 ∨ k = 23 := by omega
    · exact h22
    · exact h23

/-- A change of one byte that keeps the frame valid is none: in bytes 0..21 the sum would show it, in bytes 22 and 23
the stored checksum (R125). -/
theorem byte_eq_of_validate_set {f : RawFrame} {k : Fin 24} {b : Byte} (hf : validate f = true)
    (hset : validate (f.set k b) = true) : b = f.byte k := by
  have hother : ∀ j, j ≠ k → (f.set k b).byte j = f.byte j := fun j hj => RawFrame.byte_set_other f hj b
  rw [← RawFrame.byte_set_same f k b]
  by_cases hk : k.val < 22
  · obtain ⟨-, -, hsf⟩ := (validate_iff f).mp hf
    obtain ⟨-, -, hsg⟩ := (validate_iff (f.set k b)).mp hset
    refine byte_eq_of_sum_eq hk hother ?_
    rw [hsf, hsg, RawFrame.stored, RawFrame.stored, hother 22 (by omega), hother 23 (by omega)]
  · rw [eq_of_validate_of_bytes_eq hf hset fun j hj => hother j (by omega)]

/-- Settles O45: two validating frames never differ in one byte or in the stored checksum only; and validation sees
bytes 2..21 through their sum. -/
theorem singleByteChangesAreDetected : Obligations.SingleByteChangesAreDetected := by
  refine ⟨fun f k b hf hne => ?_, fun f g hf h hne => ?_, fun f g hf h0 h1 h22 h23 hsum => ?_⟩
  · exact Bool.eq_false_iff.mpr fun hset => hne (byte_eq_of_validate_set hf hset)
  · exact Bool.eq_false_iff.mpr fun hg => hne (eq_of_validate_of_bytes_eq hf hg h)
  · rw [← sum_toNat_eq_finset_sum, ← sum_toNat_eq_finset_sum] at hsum
    rw [validate_iff_toNat, h0, h1, h22, h23, hsum]
    exact (validate_iff_toNat f).mp hf

end Sys2Proof.Machine
end

section
/-! SUPPORT. The extractor family (`43_field_extract.md`): the fields as big-endian loads from the buffer (R54, R130), the
synthetic frame of a reading (R85, R134), and the cycle that publishes a frame (R134, R140). -/

namespace Sys2Proof.Machine

/-! ## The fields as loads from the buffer -/

/-- Byte `k` of the frame at `i` is the one-byte load at `i + k` (R53). -/
theorem memRead1_of_frame {s : State} {i : Nat} {f : RawFrame} (h : frame (window s) i = some f) (k : Fin 24) :
    memRead1 s (i + k.val) = f.byte k := by
  have hlen := frame_bound h
  rw [window_length] at hlen
  have hbyte := frame_byte h k
  rw [window_getElem? s (by omega)] at hbyte
  exact Option.some.inj hbyte

/-- Two neighbouring bytes of the frame at `i` are one two-byte load (R54). -/
theorem memRead2_of_frame {s : State} {i : Nat} {f : RawFrame} (h : frame (window s) i = some f) (k : Fin 23) :
    memRead2 s (i + k.val) = be16 (f.byte k.castSucc) (f.byte k.succ) :=
  congrArg₂ be16 (memRead1_of_frame h k.castSucc) (memRead1_of_frame h k.succ)

/-- Settles O46: a field is `be16` of its byte pair, and that pair is a two-byte load. -/
theorem extractReadsBigEndianPairs : Obligations.ExtractReadsBigEndianPairs := by
  refine ⟨fun f => ⟨be16_toNat _ _, be16_toNat _ _, be16_toNat _ _⟩, fun s i f h => ⟨?_, (memRead2_of_frame h 22).symm⟩⟩
  calc extract f
      = ⟨be16 (f.byte 4) (f.byte 5), be16 (f.byte 6) (f.byte 7), be16 (f.byte 8) (f.byte 9)⟩ := rfl
    _ = ⟨memRead2 s (i + 4), memRead2 s (i + 6), memRead2 s (i + 8)⟩ :=
      (congr (congrArg₂ Reading.mk (memRead2_of_frame h 4) (memRead2_of_frame h 6)) (memRead2_of_frame h 8)).symm

/-! ## The synthetic frame of a reading -/

/-- The 24 bytes of `FRAME p1, p25, p10` (R85) as a RawFrame. -/
def syntheticFrame (r : Reading) : RawFrame := ⟨frameBytes r, rfl⟩

/-- `ck` of R85 is the sum of the frame it is stored in: the sum covers the body only (R120). -/
theorem sum_syntheticFrame (r : Reading) : sum (syntheticFrame r) = frameCk r := rfl

theorem stored_syntheticFrame (r : Reading) : (syntheticFrame r).stored = frameCk r := be16_hi_lo (frameCk r)

theorem validate_syntheticFrame (r : Reading) : validate (syntheticFrame r) = true :=
  (validate_iff _).mpr ⟨rfl, rfl, (sum_syntheticFrame r).trans (stored_syntheticFrame r).symm⟩

/-- Each field is put together again from the two bytes it was taken apart into (R13). -/
theorem extract_syntheticFrame (r : Reading) : extract (syntheticFrame r) = r := by
  obtain ⟨p1, p25, p10⟩ := r
  exact congr (congrArg₂ Reading.mk (be16_hi_lo p1) (be16_hi_lo p25)) (be16_hi_lo p10)

/-- Settles O47: the stored checksum and the three fields are read back as they were written. -/
theorem syntheticFrameRoundTrip : Obligations.SyntheticFrameRoundTrip := fun r =>
  ⟨syntheticFrame r, ofBytes_eq_some.mpr rfl, validate_syntheticFrame r, extract_syntheticFrame r⟩

/-! ## A window that is one valid frame -/

theorem frame_bytes (f : RawFrame) : frame f.bytes 0 = some f := by
  rw [frame_eq_some, List.drop_zero]
  exact List.take_of_length_le f.size.le

/-- In 24 bytes with the header, offset 0 is the only candidate. -/
theorem candidates_bytes {f : RawFrame} (h0 : f.byte 0 = 0x42#8) (h1 : f.byte 1 = 0x4D#8) : candidates f.bytes = [0] := by
  have hcand : cand f.bytes 0 = true :=
    (cand_iff _ _).mpr ⟨f.size.ge, h0 ▸ frame_byte (frame_bytes f) 0, h1 ▸ frame_byte (frame_bytes f) 1⟩
  rw [candidates, f.size]
  exact List.filter_cons_of_pos hcand

theorem selected_bytes {f : RawFrame} (hv : validate f = true) : selected f.bytes = some (0, f) := by
  obtain ⟨h0, h1, -⟩ := (validate_iff f).mp hv
  have htry : tryCandidate f.bytes 0 = some (0, f) := tryCandidate_eq_some.mpr ⟨rfl, frame_bytes f, hv⟩
  rw [selected, candidates_bytes h0 h1, List.findSome?_cons, htry]

/-- With no flag set, a window that is one valid frame gives that frame (R194). -/
theorem outcome_of_window_eq_frame {s : State} {f : RawFrame} (ho : s.ovf = false) (hl : s.link_err = false)
    (hcap : 24 ≤ s.cfg.cap) (hw : window s = f.bytes) (hv : validate f = true) : outcome s = .ok (.ok 0 f) := by
  have hlen : s.len = 24 := by rw [← window_length, hw, f.size]
  rw [outcome_eq_classify ho hl (by omega) (by omega), hw, classify_of_selected (selected_bytes hv)]

/-! ## What pushes leave alone -/

/-- What every command of a sequence keeps, the sequence keeps. -/
theorem runCommands_keeps {α : Type} (g : State → α) {is : List Instr}
    (hkeep : ∀ i ∈ is, ∀ s t, exec i s = .next t → g t = g s) {s t : State} (h : runCommands is s = .next t) :
    g t = g s := by
  induction is generalizing s with
  | nil => injection h with h; rw [h]
  | cons i is ih =>
    obtain ⟨u, hu, ht⟩ := runCommands_cons_eq_next h
    exact (ih (fun j hj => hkeep j (List.mem_cons_of_mem i hj)) ht).trans (hkeep i List.mem_cons_self s u hu)

/-- PUSH writes neither `link_err`, nor `stop_req`, nor `sample_count`, by the writers of each (R31). -/
theorem exec_push_keeps {b : Byte} {s t : State} (h : exec (.push b) s = .next t) :
    t.link_err = s.link_err ∧ t.stop_req = s.stop_req ∧ t.sample_count = s.sample_count := by
  obtain ⟨o, u, hd, rfl⟩ := exec_eq_next h
  refine ⟨?_, ?_, ?_⟩
  · by_contra hne; simpa using hd.link_err_writers hne
  · by_contra hne; simpa using hd.stop_req_writers hne
  · by_contra hne; simpa using hd.result_writers (.inr (.inr (.inr hne)))

theorem runCommands_appendCmds_keeps {bs : List Byte} {s t : State} (h : runCommands (appendCmds bs) s = .next t) :
    t.link_err = s.link_err ∧ t.stop_req = s.stop_req ∧ t.sample_count = s.sample_count := by
  have hkeep := runCommands_keeps (fun s => (s.link_err, s.stop_req, s.sample_count)) (fun i hi s t ht => ?_) h
  · simpa using hkeep
  · obtain ⟨b, -, rfl⟩ := List.mem_map.mp hi
    simpa using exec_push_keeps ht

/-! ## The cycle over a valid frame -/

/-- `u` is ready for the SCAN that publishes `f`, in the cycle that began in `s`. -/
structure ReadyToPublish (s : State) (f : RawFrame) (u : State) : Prop where
  reading : u.state = .reading
  outcome : outcome u = .ok (.ok 0 f)
  len : u.len = 24
  stop_req : u.stop_req = s.stop_req
  sample_count : u.sample_count = s.sample_count

/-- START and the 24 bytes of a valid frame, whatever was in the buffer before (R153, R105). -/
theorem runCommands_start_frame {s : State} {f : RawFrame} (hwf : s.cfg.wf) (hidle : s.state = .idle)
    (hv : validate f = true) :
    ∃ u, runCommands ([.start] ++ appendCmds f.bytes) s = .next u ∧ ReadyToPublish s f u := by
  obtain ⟨u, hu, hp⟩ := runCommands_appendCmds (s := emit { flush_req := true } (enterReading s)) (cap_pos_of_wf hwf)
    rfl rfl f.bytes
  obtain ⟨hlink, hstop, hcount⟩ := runCommands_appendCmds_keeps hu
  have hnone : overflows s.cfg.cap f.bytes.length = 0 := overflows_eq_zero (cap_pos_of_wf hwf) (f.size ▸ hwf.1)
  have hwin : window u = f.bytes := by simpa [hnone] using hp.window
  have hovf : u.ovf = false := by simpa [hnone] using hp.ovf
  refine ⟨u, (runCommands_cons (exec_of_does (.start hidle)) _).trans hu, ?_⟩
  exact
    { reading := hp.reading
      outcome := outcome_of_window_eq_frame hovf hlink (by rw [hp.cfg]; exact hwf.1) hwin hv
      len := by rw [← window_length, hwin, f.size]
      stop_req := hstop
      sample_count := hcount }

/-- SCAN, NEXT and READ_LATEST on a state that is ready: the frame is published, left and answered (R140, R157, R142). -/
theorem ReadyToPublish.runCommands_scan_next_read {s u : State} {f : RawFrame} (h : ReadyToPublish s f u)
    (hstop : s.stop_req = false) :
    ∃ t, runCommands [.scan, .next, .readLatest] u = .next t ∧
      t.trace.head? = some (Out.response (latestView t)) ∧ (⟨t.pm1, t.pm2_5, t.pm10⟩ : Reading) = extract f ∧
      t.sample_count = countSample s.sample_count ∧ t.consecutive_failures = 0#8 ∧ t.healthy = true ∧ t.err = .none ∧
      t.state = .idle ∧ t.len = 24 := by
  have hscan := exec_of_does (.scanOk h.reading h.outcome)
  have hnext := exec_of_does (.next (s := emit Out.quiet (recordSuccess f u)) rfl)
  rw [runCommands_cons hscan, runCommands_cons hnext, runCommands_cons (exec_of_does .readLatest)]
  refine ⟨_, rfl, rfl, ?_, ?_, ?_, ?_, ?_, ?_, ?_⟩ <;> simp [h.sample_count, h.stop_req, h.len, hstop]

/-- Settles O48: the synthetic frame is valid, so its cycle publishes it, and it extracts to the reading. -/
theorem pipelineRoundTrip : Obligations.PipelineRoundTrip := by
  intro s r hwf hidle hstop
  obtain ⟨u, hu, hready⟩ := runCommands_start_frame hwf hidle (validate_syntheticFrame r)
  obtain ⟨t, ht, htrace, hreading, hcount, hfail, hhealthy, herr, hstate, hlen⟩ :=
    hready.runCommands_scan_next_read hstop
  have hcmds : cycleCmds (frameCmds r) ++ [.readLatest] =
      ([.start] ++ appendCmds (syntheticFrame r).bytes) ++ [.scan, .next, .readLatest] := List.append_assoc _ _ _
  rw [hcmds, runCommands_append hu]
  rw [extract_syntheticFrame] at hreading
  subst hreading
  exact ⟨t, ht, htrace, rfl, rfl, rfl, hcount ▸ countSample_toNat _, hfail, hhealthy, herr, hstate, hlen⟩

end Sys2Proof.Machine
end

section
/-! SUPPORT. The aggregator family (`44_aggregator.md`): the success path and who takes it (R140, R146), the four READ
commands with the fields of their answers (R142 to R145), and what two reads with commands between them tell (R148). -/

namespace Sys2Proof.Machine

/-! ## The success path -/

/-- The counter law, R141, as a saturating increment. -/
theorem countSample_eq (n : U32) : countSample n = if n = 0xFFFFFFFF#32 then 0xFFFFFFFF#32 else n + 1#32 := by
  split
  · subst n; rfl
  · rename_i hne
    have hlt : n.toNat < 0xFFFFFFFF := by bv_omega
    apply BitVec.eq_of_toNat_eq
    rw [countSample_toNat, BitVec.toNat_add, BitVec.toNat_ofNat]
    omega

/-- `first_valid` is the offset at which the selected frame stands (R113, R116). -/
theorem selected_of_firstValid {w : List Byte} {i : Nat} {f : RawFrame} (hi : firstValid w = some i)
    (hf : frame w i = some f) : selected w = some (i, f) := by
  obtain ⟨⟨j, g⟩, hs, rfl⟩ := Option.map_eq_some_iff.mp hi
  obtain ⟨-, hg, -⟩ := selected_spec hs
  rw [hs, Option.some.inj (hg.symm.trans hf)]

/-- With no flag set, a frame selected from the window is the outcome (R194): a window with a frame is not empty. -/
theorem outcome_of_selected {s : State} {i : Nat} {f : RawFrame} (ho : s.ovf = false) (hl : s.link_err = false)
    (hc : s.len ≤ s.cfg.cap) (hs : selected (window s) = some (i, f)) : outcome s = .ok (.ok i f) := by
  obtain ⟨-, hf, -⟩ := selected_spec hs
  have hlen := frame_bound hf
  rw [window_length] at hlen
  rw [outcome_eq_classify ho hl (by omega) hc, classify_of_selected hs]

/-- Settles O9: the frame at `first_valid` is the outcome, and SCAN records it. -/
theorem scanSuccessPublishesTheFrame : Obligations.ScanSuccessPublishesTheFrame := by
  intro s i f hr ho hl hc hi hf
  have hok := outcome_of_selected ho hl hc (selected_of_firstValid hi hf)
  rw [exec_of_does (.scanOk hr hok), ← countSample_eq]
  rfl

/-- A command keeps the reading and its counter, or is a SCAN that takes the success path (R140, R146). -/
theorem Does.keeps_result_or_records {i : Instr} {s u : State} {o : Out} (hd : Does i s o u) :
    (u.pm1 = s.pm1 ∧ u.pm2_5 = s.pm2_5 ∧ u.pm10 = s.pm10 ∧ u.sample_count = s.sample_count) ∨
    (i = .scan ∧ s.state = .reading ∧ ∃ k f, outcome s = .ok (.ok k f) ∧ u = recordSuccess f s) := by
  cases hd with
  | scanOk hr ho => exact .inr ⟨rfl, hr, _, _, ho, rfl⟩
  | next => exact .inl ⟨leaveTerminal_pm1 s, leaveTerminal_pm2_5 s, leaveTerminal_pm10 s, leaveTerminal_sample_count s⟩
  | stop => exact .inl ⟨requestStop_pm1 s, requestStop_pm2_5 s, requestStop_pm10 s, requestStop_sample_count s⟩
  | _ => exact .inl ⟨rfl, rfl, rfl, rfl⟩

/-- Settles O26: what the success path records is a selected frame, so it lies in the window and validates. -/
theorem onlyValidatedFramesArePublished : Obligations.OnlyValidatedFramesArePublished := by
  intro i s t ht
  obtain ⟨o, u, hd, rfl⟩ := exec_eq_next ht
  rcases hd.keeps_result_or_records with hkeep | ⟨hi, hr, k, f, hok, rfl⟩
  · exact .inl hkeep
  · obtain ⟨hovf, hlink, -, -, hs⟩ := outcome_eq_ok hok
    obtain ⟨-, hf, hv⟩ := selected_spec hs
    obtain ⟨h0, h1, hsum⟩ := (validate_iff f).mp hv
    have hk : k + 24 ≤ s.len := window_length s ▸ frame_bound hf
    exact .inr ⟨hi, hr, hovf, hlink, rfl, k, f, hk, (frame_eq_some.mp hf).symm, h0, h1, hsum, rfl, rfl, rfl⟩

/-! ## The READ commands -/

/-- A slice of a word, bit by bit. -/
theorem extractLsb'_eq_of_getLsbD {n lo width : Nat} {v : BitVec n} {x : BitVec width}
    (h : ∀ j < width, v.getLsbD (lo + j) = x.getLsbD j) : v.extractLsb' lo width = x := by
  apply BitVec.eq_of_getLsbD_eq
  intro j hj
  rw [BitVec.getLsbD_extractLsb', h j hj, decide_eq_true hj, Bool.true_and]

/-- The three fields of the answer to READ_LATEST, R83 and R142. -/
theorem latestView_fields (s : State) :
    (latestView s).extractLsb' 32 16 = s.pm1 ∧ (latestView s).extractLsb' 16 16 = s.pm2_5 ∧
      (latestView s).extractLsb' 0 16 = s.pm10 := by
  refine ⟨?_, ?_, ?_⟩ <;> refine extractLsb'_eq_of_getLsbD fun j hj => ?_ <;> rw [latestView_getLsbD]
  · rw [if_neg (by omega), if_neg (by omega), show 32 + j - 16 - 16 = j by omega]
  · rw [if_neg (by omega), if_pos (by omega), Nat.add_sub_cancel_left]
  · rw [Nat.zero_add, if_pos hj]

/-- Settles O17, by the three fields of the answer. -/
theorem readLatestReturnsTheReading : Obligations.ReadLatestReturnsTheReading :=
  ⟨fun d => decode_of_fields (opField_append _ d) nofun,
    fun s => ⟨latestView s, exec_of_does .readLatest, latestView_fields s⟩⟩

/-- Settles O18: 48 bits hold every value of the 32-bit counter. -/
theorem readCountReturnsTheCounter : Obligations.ReadCountReturnsTheCounter :=
  ⟨fun d => decode_of_fields (opField_append _ d) nofun,
    fun s => ⟨countView s, exec_of_does .readCount, BitVec.toNat_setWidth_of_le (by decide)⟩⟩

theorem healthyView_eq (s : State) : healthyView s = if s.healthy then 1#48 else 0#48 := by
  unfold healthyView
  cases s.healthy <;> rfl

/-- Settles O19: the flag as a number. -/
theorem readHealthyReturnsTheFlag : Obligations.ReadHealthyReturnsTheFlag := by
  refine ⟨fun d => decode_of_fields (opField_append _ d) nofun, fun s => ?_⟩
  rw [← healthyView_eq]
  exact exec_of_does .readHealthy

/-! ## The fields of STATUS (R33) -/

section
variable (s : State)

theorem status_state : (status s).extractLsb' 0 3 = s.state.code :=
  extractLsb'_eq_of_getLsbD fun j hj => by rw [Nat.zero_add, status_getLsbD, if_pos hj]

theorem status_err : (status s).extractLsb' 3 3 = s.err.code :=
  extractLsb'_eq_of_getLsbD fun j hj => by
    rw [status_getLsbD, if_neg (by omega), if_pos (by omega), Nat.add_sub_cancel_left]

theorem status_consecutive_failures : (status s).extractLsb' 8 8 = s.consecutive_failures :=
  extractLsb'_eq_of_getLsbD fun j hj => by
    simp (disch := omega) only [status_getLsbD, if_neg, if_pos, Nat.add_sub_cancel_left]

theorem status_len : (status s).extractLsb' 18 16 = lenField s :=
  extractLsb'_eq_of_getLsbD fun j hj => by
    simp (disch := omega) only [status_getLsbD, if_neg, if_pos, Nat.add_sub_cancel_left]

theorem status_unused : (status s).extractLsb' 34 14 = 0#14 :=
  extractLsb'_eq_of_getLsbD fun j hj => by
    simp (disch := omega) only [status_getLsbD, if_neg, BitVec.getLsbD_zero]

/-- The four flags of STATUS. -/
theorem status_flags : (status s).getLsbD 6 = s.healthy ∧ (status s).getLsbD 7 = s.stop_req ∧
    (status s).getLsbD 16 = s.ovf ∧ (status s).getLsbD 17 = s.link_err :=
  ⟨status_getLsbD s 6, status_getLsbD s 7, status_getLsbD s 16, status_getLsbD s 17⟩

end

theorem lenField_toNat {s : State} (h : s.len ≤ 65535) : (lenField s).toNat = s.len := by
  rw [lenField, BitVec.toNat_ofNat, Nat.mod_eq_of_lt (by omega)]

/-- Settles O20, field by field; the two codes are the numbers of R80 and R81. -/
theorem readStatusReturnsEveryField : Obligations.ReadStatusReturnsEveryField := by
  refine ⟨fun d => decode_of_fields (opField_append _ d) nofun, fun s => ⟨status s, exec_of_does .readStatus, ?_⟩⟩
  obtain ⟨hhealthy, hstop, hovf, hlink⟩ := status_flags s
  refine ⟨?_, ?_, hhealthy, hstop, status_consecutive_failures s, hovf, hlink, fun h => ?_, status_unused s⟩
  · rw [status_state]
    cases s.state <;> rfl
  · rw [status_err]
    cases s.err <;> rfl
  · rw [status_len, lenField_toNat h]

/-! ## Two reads with commands between them (R148) -/

/-- A command sequence answers one record for each of its commands (R40). -/
theorem runCommands_trace {is : List Instr} {s t : State} (h : runCommands is s = .next t) :
    ∃ os : List Out, t.trace = os ++ s.trace ∧ os.length = is.length := by
  induction is generalizing s with
  | nil => injection h with h; exact ⟨[], by rw [h, List.nil_append], rfl⟩
  | cons i is ih =>
    obtain ⟨u, hu, hrun⟩ := runCommands_cons_eq_next h
    obtain ⟨o, v, hd, rfl⟩ := exec_eq_next hu
    obtain ⟨os, htrace, hlen⟩ := ih hrun
    exact ⟨os ++ [o], by simp [htrace, hd.trace_eq], by simp [hlen]⟩

/-- What a sequence has changed, one of its commands has changed (the converse of `runCommands_keeps`). -/
theorem exists_changing_command {α : Type} (g : State → α) {is : List Instr} {s t : State}
    (h : runCommands is s = .next t) (hne : g t ≠ g s) :
    ∃ pre i post x y, is = pre ++ [i] ++ post ∧ runCommands pre s = .next x ∧ exec i x = .next y ∧ g y ≠ g x := by
  induction is generalizing s with
  | nil => injection h with h; exact absurd (congrArg g h.symm) hne
  | cons i is ih =>
    obtain ⟨u, hu, hrun⟩ := runCommands_cons_eq_next h
    by_cases hgu : g u = g s
    · obtain ⟨pre, j, post, x, y, rfl, hpre, hj, hg⟩ := ih hrun (hgu ▸ hne)
      exact ⟨i :: pre, j, post, x, y, rfl, (runCommands_cons hu pre).trans hpre, hj, hg⟩
    · exact ⟨[], i, is, s, u, rfl, rfl, hu, hgu⟩

/-- Another answer to READ_LATEST means another reading. -/
theorem reading_ne_of_latestView_ne {s t : State} (h : latestView t ≠ latestView s) :
    t.pm1 ≠ s.pm1 ∨ t.pm2_5 ≠ s.pm2_5 ∨ t.pm10 ≠ s.pm10 := by
  by_contra hall
  push Not at hall
  obtain ⟨h1, h25, h10⟩ := hall
  exact h (by rw [latestView, latestView, h1, h25, h10])

/-- Settles O38: each read answers its state's view, and only a SCAN that ends in Success can change what is viewed. -/
theorem readsAreIdempotent : Obligations.ReadsAreIdempotent := by
  intro is s t ht
  have hread (x : State) : exec .readLatest x = .next (emit (Out.response (latestView x)) x) := exec_of_does .readLatest
  obtain ⟨u, hu, hlast⟩ := runCommands_append_eq_next ht
  rw [runCommands_cons (hread u)] at hlast
  injection hlast with hlast
  subst hlast
  have hmid : runCommands is (emit (Out.response (latestView s)) s) = .next u :=
    (runCommands_cons (hread s) is).symm.trans hu
  obtain ⟨os, htrace, hlen⟩ := runCommands_trace hmid
  refine ⟨latestView s, latestView u, os, congrArg (_ :: ·) htrace, hlen, fun hne => ?_⟩
  obtain ⟨pre, i, post, x, y, his, hpre, hi, hxy⟩ := exists_changing_command latestView hmid hne
  have hreading := reading_ne_of_latestView_ne hxy
  obtain ⟨o, v, hd, rfl⟩ := exec_eq_next hi
  obtain ⟨rfl, hr, hsuccess⟩ := hd.result_writers (hreading.imp_right (Or.imp_right .inl))
  exact ⟨pre, post, x, _, his, (runCommands_cons (hread s) pre).trans hpre, hi, hr, hsuccess, hreading⟩

end Sys2Proof.Machine
end

section
/-! SUPPORT. The controller family (`45_controller.md`): NOP, START and NEXT (R152, R153, R157), the two paths of SCAN
(R155), the transition relation (R151), the end of run (R159), and a cycle with a stop pending beside the same cycle
without one (R158). -/

namespace Sys2Proof.Machine

/-- A command does one thing only: what `Does` gives is what `exec` answers. -/
theorem Does.eq_of_exec {i : Instr} {s t u : State} {o : Out} (hd : Does i s o u) (h : exec i s = .next t) :
    t = emit o u := by
  rw [exec_of_does hd] at h
  injection h with h
  exact h.symm

/-- The terminal states, R18. -/
theorem Fsm.isTerminal_eq_true {st : Fsm} :
    st.isTerminal = true ↔ st ∈ [Fsm.success, .noFrame, .checksumFail, .linkError] := by
  cases st <;> simp [Fsm.isTerminal]

/-! ## NOP and START -/

/-- Settles O5: NOP answers a record of zeros. -/
theorem nopChangesNothing : Obligations.NopChangesNothing :=
  ⟨fun d => decode_of_fields (opField_append _ d) nofun, fun _ => exec_of_does .nop⟩

/-- Settles O6: START enters Reading from Idle, and the legality table rejects it elsewhere. -/
theorem startBeginsACycle : Obligations.StartBeginsACycle :=
  ⟨fun d => decode_of_fields (opField_append _ d) nofun, fun _ hi => exec_of_does (.start hi),
    fun _ hn => exec_of_reject (legality_eq_reject.mpr (.inl ⟨rfl, hn⟩))⟩

/-! ## NEXT -/

theorem leaveTerminal_pending {s : State} (h : s.stop_req = true) :
    leaveTerminal s = { s with state := .stopped, stop_req := false } := if_pos h

theorem leaveTerminal_not_pending {s : State} (h : s.stop_req = false) :
    leaveTerminal s = { s with state := .idle } := if_neg (Bool.eq_false_iff.mp h)

/-- Settles O12: NEXT leaves a terminal state by `stop_req`, and the legality table rejects it elsewhere. -/
theorem nextLeavesATerminalState : Obligations.NextLeavesATerminalState := by
  refine ⟨fun d => decode_of_fields (opField_append _ d) nofun, fun s hs => ?_,
    fun s hs => exec_of_reject (legality_eq_reject.mpr (.inr (.inr (.inl ⟨rfl, hs⟩))))⟩
  have hnext := exec_of_does (.next (Fsm.isTerminal_eq_true.mpr hs))
  constructor
  · intro hp
    rw [hnext, leaveTerminal_not_pending hp]
    rfl
  · intro hp
    rw [hnext, leaveTerminal_pending hp]
    rfl

/-! ## SCAN -/

/-- The two paths of SCAN, R155: the frame of the outcome is recorded, or its failure is raised. -/
theorem exec_scan_eq_next {s t : State} (hr : s.state = .reading) (h : exec .scan s = .next t) :
    (∃ k f, outcome s = .ok (.ok k f) ∧ t = emit Out.quiet (recordSuccess f s)) ∨
    (∃ c, outcome s = .ok (.failed c) ∧ t = raiseFailure c s) := by
  rcases ho : outcome s with r | ⟨k, f⟩ | c
  · simp [exec, execScan, guarded, legality, execOnlyIf, hr, ho] at h
  · exact .inl ⟨k, f, rfl, (Does.scanOk hr ho).eq_of_exec h⟩
  · rw [exec_scan_of_failed hr ho] at h
    injection h with h
    exact .inr ⟨c, rfl, h.symm⟩

/-- With the write pointer inside the buffer a SCAN in Reading completes: it always has an outcome. -/
theorem exec_scan_completes {s : State} (hr : s.state = .reading) (hl : s.len ≤ s.cfg.cap) :
    ∃ t, exec .scan s = .next t := by
  obtain ⟨_ | c, ho⟩ := outcome_total hl
  · exact ⟨_, exec_of_does (.scanOk hr ho)⟩
  · exact ⟨_, exec_scan_of_failed hr ho⟩

/-- After a SCAN the block rests in a terminal state, R156. -/
theorem exec_scan_isTerminal {s t : State} (hr : s.state = .reading) (h : exec .scan s = .next t) :
    t.state.isTerminal = true := by
  rcases exec_scan_eq_next hr h with ⟨k, f, -, rfl⟩ | ⟨c, -, rfl⟩
  · rfl
  · rw [raiseFailure_state, c.terminal_isTerminal]

/-- Settles O11: each of the two paths leaves the buffer and the flags alone, and a recorded frame was selected. -/
theorem scanRunsOnePathOrIsRejected : Obligations.ScanRunsOnePathOrIsRejected := by
  refine ⟨fun d => decode_of_fields (opField_append _ d) nofun,
    fun s hn => exec_of_reject (legality_eq_reject.mpr (.inr (.inl ⟨.inr rfl, hn⟩))), fun s hr hl => ?_⟩
  obtain ⟨t, ht⟩ := exec_scan_completes hr hl
  refine ⟨t, ht, ?_⟩
  rcases exec_scan_eq_next hr ht with ⟨k, f, ho, rfl⟩ | ⟨c, ho, rfl⟩
  · obtain ⟨-, -, -, -, hs⟩ := outcome_eq_ok ho
    obtain ⟨-, hf, hv⟩ := selected_spec hs
    exact ⟨.inl ⟨k, f, ho, hf, hv, rfl, rfl⟩, rfl, rfl, rfl, rfl, rfl⟩
  · exact ⟨.inr ⟨c, ho, raiseFailure_state c s, raiseFailure_err c s⟩, raiseFailure_buf c s, raiseFailure_len c s,
      raiseFailure_ovf c s, raiseFailure_link_err c s, raiseFailure_stop_req c s⟩

/-! ## The transition relation (R151) -/

/-- A command keeps `state`, or the pair of state and command is one of the table's. -/
theorem Does.state_eq_or_listed {i : Instr} {s u : State} {o : Out} (hd : Does i s o u) :
    u.state = s.state ∨ (s.state = .idle ∧ i = .start) ∨ (s.state = .idle ∧ i = .stop) ∨
    (s.state = .reading ∧ i = .scan) ∨ (s.state.isTerminal = true ∧ i = .next) := by
  cases hd with
  | start hi => exact .inr (.inl ⟨hi, rfl⟩)
  | scanOk hr => exact .inr (.inr (.inr (.inl ⟨hr, rfl⟩)))
  | scanFailed hr => exact .inr (.inr (.inr (.inl ⟨hr, rfl⟩)))
  | scanEscalated hr => exact .inr (.inr (.inr (.inl ⟨hr, rfl⟩)))
  | next ht => exact .inr (.inr (.inr (.inr ⟨ht, rfl⟩)))
  | stop =>
    by_cases hi : s.state = .idle
    · exact .inr (.inr (.inl ⟨hi, rfl⟩))
    by_cases hs : s.state = .stopped
    · rw [requestStop_stopped hs]; exact .inl rfl
    · rw [requestStop_pending hi hs]; exact .inl rfl
  | _ => exact .inl rfl

/-- Settles O24: the table's rows one by one, and no other pair moves the state. -/
theorem transitionRelationIsComplete : Obligations.TransitionRelationIsComplete := by
  refine ⟨fun i s t h => ⟨?start, ?stop, ?scan, ?next, ?other⟩, fun s w rest hp => ⟨_, step_hardReset hp, rfl⟩⟩
  case start =>
    rintro hi rfl
    rw [(Does.start hi).eq_of_exec h]
    rfl
  case stop =>
    rintro hi rfl
    rw [Does.stop.eq_of_exec h, requestStop_idle hi]
    rfl
  case scan =>
    rintro hr rfl
    rcases exec_scan_eq_next hr h with ⟨k, f, ho, rfl⟩ | ⟨c, ho, rfl⟩
    · exact .inl ⟨⟨k, f, ho⟩, rfl⟩
    · rw [raiseFailure_state, ho]
      cases c <;> simp [Failure.terminal]
  case next =>
    rintro ht rfl
    rw [(Does.next (Fsm.isTerminal_eq_true.mpr ht)).eq_of_exec h, emit_state, leaveTerminal_state]
  case other =>
    intro hstart hstop hscan hnext
    obtain ⟨o, u, hd, rfl⟩ := exec_eq_next h
    rcases hd.state_eq_or_listed with heq | hl | hl | hl | ⟨ht, hi⟩
    · exact heq
    · exact absurd hl hstart
    · exact absurd hl hstop
    · exact absurd hl hscan
    · exact absurd ⟨Fsm.isTerminal_eq_true.mp ht, hi⟩ hnext

/-! ## Stopped (R159) -/

/-- In Stopped a command answers its record and does nothing else, whatever the write pointer is. -/
theorem exec_of_stopped {s : State} (h : s.state = .stopped) (i : Instr) : ∃ o, exec i s = .next (emit o s) := by
  rcases hleg : legality i s.state with _ | _ | _
  · cases i with
    | nop => exact ⟨_, exec_of_does .nop⟩
    | stop => exact ⟨_, by rw [exec_of_does .stop, requestStop_stopped h]⟩
    | readLatest => exact ⟨_, exec_of_does .readLatest⟩
    | readCount => exact ⟨_, exec_of_does .readCount⟩
    | readHealthy => exact ⟨_, exec_of_does .readHealthy⟩
    | readStatus => exact ⟨_, exec_of_does .readStatus⟩
    | _ => simp [h, legality, execOnlyIf, eventLegality, Fsm.isTerminal] at hleg
  · exact ⟨_, exec_of_reject hleg⟩
  · exact ⟨_, exec_of_ignore hleg⟩

/-- In Stopped a command sequence answers one record a command and does nothing else. -/
theorem runCommands_of_stopped (is : List Instr) {s : State} (h : s.state = .stopped) :
    ∃ os : List Out, os.length = is.length ∧ runCommands is s = .next { s with trace := os ++ s.trace } := by
  induction is generalizing s with
  | nil => exact ⟨[], rfl, rfl⟩
  | cons i is ih =>
    obtain ⟨o, ho⟩ := exec_of_stopped h i
    obtain ⟨os, hlen, hrun⟩ := ih (s := emit o s) h
    refine ⟨os ++ [o], by simp [hlen], ?_⟩
    rw [runCommands_cons ho, hrun, emit_trace, List.append_cons]
    rfl

/-- Settles O37: only the trace grows. -/
theorem noCommandLeavesStopped : Obligations.NoCommandLeavesStopped := by
  intro is s h
  obtain ⟨os, hlen, hrun⟩ := runCommands_of_stopped is h
  refine ⟨_, hrun, ⟨rfl, rfl, rfl, rfl, rfl, rfl, rfl, rfl, rfl, rfl, rfl, rfl, rfl⟩, rfl, ?_⟩
  rw [List.length_append, hlen, Nat.add_comm]

/-! ## A cycle with a stop pending (R158) -/

/-- The state with a stop pending, and with `os` as what was answered before: the STOP has answered its own record. -/
def State.withStopPending (os : List Out) (s : State) : State := { s with stop_req := true, trace := os }

theorem exec_stop_pending {s : State} (hi : s.state ≠ .idle) (hs : s.state ≠ .stopped) :
    exec .stop s = .next (s.withStopPending (Out.quiet :: s.trace)) := by
  rw [exec_of_does .stop, requestStop_pending hi hs]
  rfl

theorem outcome_withStopPending (os : List Out) (s : State) : outcome (s.withStopPending os) = outcome s := rfl

/-- A second STOP does what it would do without the first. -/
theorem requestStop_withStopPending (os : List Out) (s : State) :
    requestStop (s.withStopPending os) = (requestStop s).withStopPending os := by
  by_cases hi : s.state = .idle
  · rw [requestStop_idle hi, requestStop_idle (s := s.withStopPending os) hi]; rfl
  by_cases hs : s.state = .stopped
  · rw [requestStop_stopped hs, requestStop_stopped (s := s.withStopPending os) hs]
  · rw [requestStop_pending hi hs, requestStop_pending (s := s.withStopPending os) hi hs]; rfl

/-- NEXT is the one command whose effect depends on `stop_req`: outside the terminal states a command does the same with
a stop pending. Its record can differ, since READ_STATUS answers the flag. -/
theorem Does.withStopPending {i : Instr} {s u : State} {o : Out} (hd : Does i s o u)
    (ht : s.state.isTerminal = false) (os : List Out) :
    ∃ o', Does i (s.withStopPending os) o' (u.withStopPending os) := by
  cases hd with
  | rejected h => exact ⟨_, .rejected h⟩
  | ignored h => exact ⟨_, .ignored h⟩
  | nop => exact ⟨_, .nop⟩
  | start h => exact ⟨_, .start h⟩
  | push h ha => exact ⟨_, .push h ha⟩
  | scanOk h ho => exact ⟨_, .scanOk h ((outcome_withStopPending os s).trans ho)⟩
  | scanFailed h ho he => exact ⟨_, .scanFailed h ((outcome_withStopPending os s).trans ho) he⟩
  | scanEscalated h ho he => exact ⟨_, .scanEscalated h ((outcome_withStopPending os s).trans ho) he⟩
  | next h => simp [ht] at h
  | stop => rw [← requestStop_withStopPending]; exact ⟨_, .stop⟩
  | overflowEvent hi h => exact ⟨_, .overflowEvent hi h⟩
  | lineEvent hi h => exact ⟨_, .lineEvent hi h⟩
  | readLatest => exact ⟨_, .readLatest⟩
  | readCount => exact ⟨_, .readCount⟩
  | readHealthy => exact ⟨_, .readHealthy⟩
  | readStatus => exact ⟨_, .readStatus⟩

theorem exec_withStopPending {i : Instr} {s t : State} (h : exec i s = .next t) (hr : s.state = .reading)
    (os : List Out) : ∃ os', exec i (s.withStopPending os) = .next (t.withStopPending os') := by
  obtain ⟨o, u, hd, rfl⟩ := exec_eq_next h
  obtain ⟨o', hd'⟩ := hd.withStopPending (by rw [hr]; rfl) os
  exact ⟨o' :: os, exec_of_does hd'⟩

/-- Only SCAN ends Reading (R151). -/
theorem exec_keeps_reading {i : Instr} {s t : State} (h : exec i s = .next t) (hr : s.state = .reading)
    (hi : i ≠ .scan) : t.state = .reading := by
  obtain ⟨o, u, hd, rfl⟩ := exec_eq_next h
  simpa [hr, hi, Fsm.isTerminal] using hd.state_eq_or_listed

/-- The body of a cycle does the same with a stop pending. -/
theorem runCommands_withStopPending {body : List Instr} {s t : State} (h : runCommands body s = .next t)
    (hr : s.state = .reading) (hb : ∀ i ∈ body, i ≠ .scan) (os : List Out) :
    ∃ os', runCommands body (s.withStopPending os) = .next (t.withStopPending os') := by
  induction body generalizing s os with
  | nil => injection h with h; exact ⟨os, by rw [h]; rfl⟩
  | cons i body ih =>
    obtain ⟨u, hu, hrun⟩ := runCommands_cons_eq_next h
    obtain ⟨hi, hrest⟩ := List.forall_mem_cons.mp hb
    obtain ⟨os₁, hu'⟩ := exec_withStopPending hu hr os
    obtain ⟨os₂, hrun'⟩ := ih hrun (exec_keeps_reading hu hr hi) hrest os₁
    exact ⟨os₂, (runCommands_cons hu' body).trans hrun'⟩

/-- The NEXT at the end of a cycle consumes the pending stop (R157). -/
theorem exec_next_withStopPending {s : State} (ht : s.state.isTerminal = true) (os : List Out) :
    exec .next (s.withStopPending os) =
      .next { s with state := .stopped, stop_req := false, trace := Out.quiet :: os } := by
  rw [exec_of_does (.next (s := s.withStopPending os) ht), leaveTerminal_pending rfl]
  rfl

/-- Settles O13: with the stop pending the body and the SCAN do what they do without it, and the NEXT then stops. -/
theorem stopTakesEffectAtTheBoundary : Obligations.StopTakesEffectAtTheBoundary := by
  refine ⟨fun d => decode_of_fields (opField_append _ d) nofun, fun s hi => ?idle, fun s hs => ?stopped,
    fun _ hi hs => exec_stop_pending hi hs, fun body s hr hcap hl hb => ?cycle⟩
  case idle => rw [exec_of_does .stop, requestStop_idle hi]; rfl
  case stopped => rw [exec_of_does .stop, requestStop_stopped hs]; rfl
  case cycle =>
    obtain ⟨v, hv, hw⟩ := runCommands_withinCycle body hcap hr hl hb
    obtain ⟨u, hu⟩ := exec_scan_completes hw.reading hw.len_le
    have hterm := exec_scan_isTerminal hw.reading hu
    have hstop := exec_stop_pending (s := s) (by simp [hr]) (by simp [hr])
    obtain ⟨os₁, hbody⟩ := runCommands_withStopPending hv hr hb (Out.quiet :: s.trace)
    obtain ⟨os₂, hscan⟩ := exec_withStopPending hu hw.reading os₁
    have hnext := exec_next_withStopPending hterm os₂
    have hwithout : runCommands (body ++ [.scan]) s = .next u :=
      (runCommands_append hv).trans (runCommands_cons hu [])
    have hwith : runCommands ([.stop] ++ body ++ [.scan, .next]) s =
        .next { u with state := .stopped, stop_req := false, trace := Out.quiet :: os₂ } :=
      calc runCommands ([.stop] ++ body ++ [.scan, .next]) s
        _ = runCommands [.scan, .next] (v.withStopPending os₁) :=
          runCommands_append ((runCommands_cons hstop body).trans hbody)
        _ = runCommands [.next] (u.withStopPending os₂) := runCommands_cons hscan _
        _ = .next { u with state := .stopped, stop_req := false, trace := Out.quiet :: os₂ } :=
          runCommands_cons hnext []
    exact ⟨u, _, hwithout, hwith, rfl, rfl, hterm, rfl, rfl, rfl, rfl, rfl, rfl, rfl, rfl, rfl, rfl, rfl⟩

end Sys2Proof.Machine
end

section
/-! SUPPORT. The device-event family (`46_device_events.md`): what the five events do in Reading (R182, R183) and
elsewhere (R181), and why a cycle in which one came cannot be saved (R184). -/

namespace Sys2Proof.Machine

/-! ## One event -/

/-- Settles O14: both events clear the buffer and mark the link error. -/
theorem overflowEventsClearTheBuffer : Obligations.OverflowEventsClearTheBuffer :=
  ⟨fun d => ⟨decode_of_fields (opField_append _ d) nofun, decode_of_fields (opField_append _ d) nofun⟩,
    fun _ _ hi hr => exec_of_does (.overflowEvent (by simpa using hi) hr)⟩

/-- Settles O16: outside Reading the legality table ignores the five events. -/
theorem eventsOutsideReadingAreIgnored : Obligations.EventsOutsideReadingAreIgnored :=
  fun _ _ hi hn => exec_of_ignore (legality_eq_ignore.mpr ⟨hi, hn⟩)

/-! ## The SCAN after an event -/

/-- The failure a SCAN finds with `link_err` set: `ovf` is looked at first (R194). -/
def linkFailure (s : State) : Failure := if s.ovf then .bufferOverflow else .linkEvent

@[simp] theorem linkFailure_terminal (s : State) : (linkFailure s).terminal = .linkError := by
  unfold linkFailure; split <;> rfl

@[simp] theorem linkFailure_err (s : State) :
    (linkFailure s).err = if s.ovf then .bufferOverflow else .linkEvent := by
  unfold linkFailure; split <;> rfl

/-- With `link_err` set the window is not read, whatever the write pointer is (R194). -/
theorem outcome_of_link_err {s : State} (h : s.link_err = true) : outcome s = .ok (.failed (linkFailure s)) := by
  cases ho : s.ovf <;> simp [outcome, linkFailure, ho, h]

theorem exec_scan_of_link_err {s : State} (hr : s.state = .reading) (hl : s.link_err = true) :
    exec .scan s = .next (raiseFailure (linkFailure s) s) :=
  exec_scan_of_failed hr (outcome_of_link_err hl)

/-- Settles O15: the three events mark the link error and nothing else, and the SCAN then raises `linkFailure`. -/
theorem lineEventsKeepTheBuffer : Obligations.LineEventsKeepTheBuffer := by
  refine ⟨fun d => ⟨decode_of_fields (opField_append _ d) nofun, decode_of_fields (opField_append _ d) nofun,
    decode_of_fields (opField_append _ d) nofun⟩, fun i s hi hr => ?event, fun s hr hl => ?scan⟩
  case event => exact exec_of_does (.lineEvent (by simpa using hi) hr)
  case scan => exact ⟨_, exec_scan_of_link_err hr hl, by simp, by simp⟩

/-! ## The cycle after an event -/

/-- Only START clears `link_err` (R26), and START is not for Reading. -/
theorem exec_keeps_link_err {i : Instr} {s t : State} (h : exec i s = .next t) (hr : s.state = .reading)
    (hl : s.link_err = true) : t.link_err = true := by
  obtain ⟨o, u, hd, rfl⟩ := exec_eq_next h
  by_contra hne
  rcases hd.link_err_writers (by rw [hl]; exact hne) with ⟨-, hidle, -⟩ | ⟨-, -, hu⟩
  · simp [hr] at hidle
  · exact hne hu

/-- Until the SCAN the cycle goes on, and the link error stays noted (R184). -/
theorem runCommands_keeps_link_err {body : List Instr} {s t : State} (h : runCommands body s = .next t)
    (hr : s.state = .reading) (hl : s.link_err = true) (hb : ∀ i ∈ body, i ≠ .scan) :
    t.state = .reading ∧ t.link_err = true := by
  induction body generalizing s with
  | nil => injection h with h; exact h ▸ ⟨hr, hl⟩
  | cons i body ih =>
    obtain ⟨u, hu, hrun⟩ := runCommands_cons_eq_next h
    obtain ⟨hi, hrest⟩ := List.forall_mem_cons.mp hb
    exact ih hrun (exec_keeps_reading hu hr hi) (exec_keeps_link_err hu hr hl) hrest

/-- Only SCAN publishes (R146). -/
theorem exec_keeps_result {i : Instr} {s t : State} (h : exec i s = .next t) (hi : i ≠ .scan) :
    t.pm1 = s.pm1 ∧ t.pm2_5 = s.pm2_5 ∧ t.pm10 = s.pm10 ∧ t.sample_count = s.sample_count := by
  obtain ⟨o, u, hd, rfl⟩ := exec_eq_next h
  exact hd.keeps_result_or_records.resolve_right fun ⟨hscan, _⟩ => hi hscan

theorem runCommands_keeps_result {body : List Instr} {s t : State} (h : runCommands body s = .next t)
    (hb : ∀ i ∈ body, i ≠ .scan) :
    t.pm1 = s.pm1 ∧ t.pm2_5 = s.pm2_5 ∧ t.pm10 = s.pm10 ∧ t.sample_count = s.sample_count := by
  have hkeep := runCommands_keeps (fun s => (s.pm1, s.pm2_5, s.pm10, s.sample_count)) (fun i hi s t ht => ?_) h
  · simpa using hkeep
  · simpa using exec_keeps_result ht (hb i hi)

/-- Settles O52: the body keeps `link_err` and the result, and the SCAN raises a failure, which publishes nothing. -/
theorem anEventFailsTheCycle : Obligations.AnEventFailsTheCycle := by
  intro body s t hr hl hb h
  obtain ⟨u, hu, hlast⟩ := runCommands_append_eq_next h
  obtain ⟨hur, hul⟩ := runCommands_keeps_link_err hu hr hl hb
  obtain ⟨h1, h25, h10, hcount⟩ := runCommands_keeps_result hu hb
  rw [runCommands_cons (exec_scan_of_link_err hur hul)] at hlast
  injection hlast with hlast
  subst hlast
  have herr : (linkFailure u).err = .bufferOverflow ∨ (linkFailure u).err = .linkEvent := by
    cases ho : u.ovf <;> simp [ho]
  exact ⟨(raiseFailure_state _ u).trans (linkFailure_terminal u), (raiseFailure_err _ u).symm ▸ herr,
    (raiseFailure_pm1 _ u).trans h1, (raiseFailure_pm2_5 _ u).trans h25, (raiseFailure_pm10 _ u).trans h10,
    (raiseFailure_sample_count _ u).trans hcount⟩

end Sys2Proof.Machine
end

section
/-! SUPPORT. The reset and hazards family (`70_reset_and_hazards.md`): hardware reset (R220), the unspecified contents of
the buffer (R222), and runs without end (R193, R226). -/

namespace Sys2Proof.Machine

/-! ## Other cells, the same window (R222) -/

/-- The state with its cells and their reset epoch exchanged for `m` and `e`. -/
def State.withCells (m : Memory) (e : Nat) (s : State) : State := { s with buf := m, epoch := e }

/-- States that look alike are one state with other cells but the same window. -/
theorem SameVisible.eq_withCells {s s' : State} (h : SameVisible s s') : s' = s.withCells s'.buf s'.epoch := by
  obtain ⟨⟨⟩, -, hport, htrace⟩ := h
  cases s; cases s'
  simp_all [State.withCells]

theorem sameVisible_withCells {m : Memory} {e : Nat} {s : State} (hw : window (s.withCells m e) = window s) :
    SameVisible s (s.withCells m e) where
  registers := ⟨rfl, rfl, rfl, rfl, rfl, rfl, rfl, rfl, rfl, rfl, rfl, rfl, rfl⟩
  window := hw.symm
  port := rfl
  trace := rfl

/-- Of the cells the tests of R194 see the window alone. -/
theorem outcome_withCells {m : Memory} {e : Nat} {s : State} (hw : window (s.withCells m e) = window s) :
    outcome (s.withCells m e) = outcome s := by
  have hread : readWindow (s.withCells m e) = readWindow s := by
    unfold readWindow
    rw [hw]
    rfl
  unfold outcome
  rw [hread]
  rfl

theorem window_leaveTerminal (s : State) : window (leaveTerminal s) = window s :=
  window_congr (leaveTerminal_len s) (leaveTerminal_buf s) (leaveTerminal_epoch s)

theorem window_requestStop (s : State) : window (requestStop s) = window s :=
  window_congr (requestStop_len s) (requestStop_buf s) (requestStop_epoch s)

theorem leaveTerminal_withCells (m : Memory) (e : Nat) (s : State) :
    leaveTerminal (s.withCells m e) = (leaveTerminal s).withCells m e := by
  unfold leaveTerminal
  rw [apply_ite (State.withCells m e)]
  rfl

theorem requestStop_withCells (m : Memory) (e : Nat) (s : State) :
    requestStop (s.withCells m e) = (requestStop s).withCells m e := by
  by_cases hi : s.state = .idle
  · rw [requestStop_idle hi, requestStop_idle (s := s.withCells m e) hi]; rfl
  by_cases hs : s.state = .stopped
  · rw [requestStop_stopped hs, requestStop_stopped (s := s.withCells m e) hs]
  · rw [requestStop_pending hi hs, requestStop_pending (s := s.withCells m e) hi hs]; rfl

/-- A PUSH appends its byte to the window, or makes it the window (R102, R103), so the windows stay equal. -/
theorem window_store_withCells {m : Memory} {e : Nat} {s : State} (hw : window (s.withCells m e) = window s) (b : Byte) :
    window (afterPush (bufFull s) (pushAddress s) (setCell (pushAddress s) b (s.withCells m e))) =
      window (afterPush (bufFull s) (pushAddress s) (setCell (pushAddress s) b s)) := by
  by_cases hf : s.len = s.cfg.cap
  · rw [pushAddress_full hf, window_restart, window_restart]
  · rw [pushAddress_room hf, window_append, ← hw]
    exact window_append (bufFull s) b (s.withCells m e)

/-- With other cells but the same window a command answers the same record, and leaves the same state but for cells
outside the window. -/
theorem Does.withCells {i : Instr} {s u : State} {o : Out} (hd : Does i s o u) {m : Memory} {e : Nat}
    (hw : window (s.withCells m e) = window s) :
    ∃ m', Does i (s.withCells m e) o (u.withCells m' e) ∧ window (u.withCells m' e) = window u := by
  cases hd with
  | rejected h => exact ⟨m, .rejected h, hw⟩
  | ignored h => exact ⟨m, .ignored h, hw⟩
  | nop => exact ⟨m, .nop, hw⟩
  | start h => exact ⟨m, .start h, rfl⟩
  | @push _ b h ha => exact ⟨Memory.write m (pushAddress s) b, .push h ha, window_store_withCells hw b⟩
  | scanOk h ho => exact ⟨m, .scanOk h ((outcome_withCells hw).trans ho), hw⟩
  | scanFailed h ho he => exact ⟨m, .scanFailed h ((outcome_withCells hw).trans ho) he, hw⟩
  | scanEscalated h ho he => exact ⟨m, .scanEscalated h ((outcome_withCells hw).trans ho) he, hw⟩
  | next h =>
    refine ⟨m, ?_, ?_⟩ <;> rw [← leaveTerminal_withCells]
    · exact .next h
    · rw [window_leaveTerminal, window_leaveTerminal, hw]
  | stop =>
    refine ⟨m, ?_, ?_⟩ <;> rw [← requestStop_withCells]
    · exact .stop
    · rw [window_requestStop, window_requestStop, hw]
  | overflowEvent hi h => exact ⟨m, .overflowEvent hi h, rfl⟩
  | lineEvent hi h => exact ⟨m, .lineEvent hi h, hw⟩
  | readLatest => exact ⟨m, .readLatest, hw⟩
  | readCount => exact ⟨m, .readCount, hw⟩
  | readHealthy => exact ⟨m, .readHealthy, hw⟩
  | readStatus => exact ⟨m, .readStatus, hw⟩

/-- Settles O30: a step waits, runs a command beside other cells, or is a hardware reset, after which the window is
empty. -/
theorem unspecifiedCellsNeverMatter : Obligations.UnspecifiedCellsNeverMatter := by
  intro s s' t h ht
  have hw : window (s.withCells s'.buf s'.epoch) = window s := by rw [← h.eq_withCells, h.window]
  rw [h.eq_withCells]
  generalize s'.buf = m, s'.epoch = e at hw
  rcases step_eq_next ht with ⟨hp, rfl⟩ | ⟨w, rest, o, u, hp, hd, rfl⟩ | ⟨a, rest, hp, rfl⟩
  · exact ⟨_, step_empty (s := t.withCells m e) hp, sameVisible_withCells hw⟩
  · obtain ⟨m', hd', hw'⟩ := hd.withCells hw
    exact ⟨_, (step_command (s := s.withCells m e) hp).trans (exec_of_does hd'),
      sameVisible_withCells (s := emit o u) hw'⟩
  · exact ⟨_, step_hardReset (s := s.withCells m e) hp, sameVisible_withCells (m := []) (e := e + 1) rfl⟩

/-! ## Hardware reset (R220) -/

/-- Settles O32: the values of R45, and what survives is what `hardwareReset` keeps. -/
theorem hardwareResetSetsEveryRegister : Obligations.HardwareResetSetsEveryRegister := by
  intro s w rest hp
  exact ⟨_, step_hardReset hp, rfl, rfl, rfl, rfl, rfl, rfl, rfl, rfl, rfl, rfl, rfl, rfl, read_nil, rfl, rfl, rfl⟩

/-! ## No run ever stops (R193) -/

theorem Reachable.invariant {s : State} (h : Reachable s) : BlockInvariant s := by
  induction h with
  | powerOn p hp => exact blockInvariant_resetWith hp
  | present s items _ ih => exact ih.withOwnFields s.epoch (s.port ++ items) s.trace
  | step s t _ hs ih => exact everyStepKeepsTheInvariant s t ih hs

/-- Where the invariant holds every item at the port can be taken: only a command can fail to complete, and with the
write pointer inside the buffer none does (R52). -/
theorem BlockInvariant.safe {s : State} (h : BlockInvariant s) : Safe s := by
  rcases hp : s.port with _ | ⟨w | a, rest⟩
  · exact ⟨s, step_empty hp⟩
  · obtain ⟨t, ht⟩ := everyCommandCompletes (decode w) { s with port := rest } (cap_pos_of_wf h.cfg_wf) h.len_le_cap
    exact ⟨t, (step_command hp).trans ht⟩
  · exact ⟨_, step_hardReset hp⟩

/-- Settles O36, from the invariant of reachable states. -/
theorem noRunEverStops : Obligations.NoRunEverStops :=
  fun _ h => ⟨h.invariant, h.invariant.safe⟩

end Sys2Proof.Machine
end

section
/-! SUPPORT. The exceptions family (`60_exceptions.md`): the failure path with its escalation (R196, R197), the order of
the tests of a cycle's outcome (R194, R195), the outcome as a function of the cycle's body, and cycles that keep failing
(R199, R200). -/

namespace Sys2Proof.Machine

/-! ## The failure path (R196, R197) -/

theorem escalates_eq_true {s : State} :
    escalates s = true ↔ s.cfg.threshold < s.consecutive_failures.toNat + 1 := decide_eq_true_iff

theorem escalates_eq_false {s : State} :
    escalates s = false ↔ s.consecutive_failures.toNat + 1 ≤ s.cfg.threshold := by
  rw [← Bool.not_eq_true, escalates_eq_true, Nat.not_lt]

theorem raiseFailure_of_escalates {s : State} (h : escalates s = true) (c : Failure) :
    raiseFailure c s = emit { chan_reset_req := true } (escalate (recordFailure c s)) := if_pos h

theorem raiseFailure_of_not_escalates {s : State} (h : escalates s = false) (c : Failure) :
    raiseFailure c s = emit Out.quiet (setFailures (failuresPlusOne s) (recordFailure c s)) :=
  if_neg (Bool.eq_false_iff.mp h)

/-- The count written back, as an addition in the register's own width. -/
theorem ofNat_failuresPlusOne (s : State) : BitVec.ofNat 8 (failuresPlusOne s) = s.consecutive_failures + 1#8 := by
  simp [failuresPlusOne, BitVec.ofNat_add]

/-- Settles O10: the table lists `err` and `terminal` of each failure, and the count decides between the two forms of
`raiseFailure`. -/
theorem scanFailurePathAndEscalation : Obligations.ScanFailurePathAndEscalation := by
  intro s c e st _ hr ho htable
  obtain ⟨rfl, rfl⟩ : e = c.err ∧ st = c.terminal := by
    cases c <;> simpa [Failure.err, Failure.terminal] using htable
  rw [exec_scan_of_failed hr ho, ← ofNat_failuresPlusOne]
  constructor
  · intro hle
    rw [raiseFailure_of_not_escalates (escalates_eq_false.mpr hle)]
    rfl
  · intro hlt
    rw [raiseFailure_of_escalates (escalates_eq_true.mpr hlt)]
    rfl

/-! ## The order of the tests (R194) -/

theorem outcome_of_empty {s : State} (ho : s.ovf = false) (hl : s.link_err = false) (hn : s.len = 0) :
    outcome s = .ok (.failed .noDataAvailable) := by
  simp [outcome, ho, hl, hn]

/-- Settles O50: the two flags and the empty buffer decide before the window is read, and `classify` after. -/
theorem outcomePriority : Obligations.OutcomePriority := by
  intro s hc
  refine ⟨outcome_of_ovf, fun ho hl => ?link, fun ho hl hn => outcome_of_empty ho hl hn,
    fun ho hl hn => ⟨fun i hi => ?valid, fun hnone hcand => ?mismatch, fun hnone hcand => ?noFrame⟩⟩
  case link => simp [outcome_of_link_err hl, linkFailure, ho]
  case valid =>
    obtain ⟨⟨j, f⟩, hs, rfl⟩ := Option.map_eq_some_iff.mp hi
    obtain ⟨-, hf, -⟩ := selected_spec hs
    exact ⟨f, hf, outcome_of_selected ho hl hc hs⟩
  case mismatch =>
    rw [outcome_eq_classify ho hl hn hc, classify_of_candidate (Option.map_eq_none_iff.mp hnone) hcand]
  case noFrame =>
    rw [outcome_eq_classify ho hl hn hc, classify_of_none (Option.map_eq_none_iff.mp hnone) hcand]

/-! ## Corner cases of a SCAN (R195) -/

/-- R110 in terms of loads from the buffer. -/
theorem cand_window_iff (s : State) (i : Nat) :
    cand (window s) i = true ↔ i + 24 ≤ s.len ∧ memRead1 s i = 0x42#8 ∧ memRead1 s (i + 1) = 0x4D#8 := by
  rw [cand_iff, window_length]
  refine and_congr_right fun h => ?_
  rw [window_getElem? s (by omega), window_getElem? s (by omega), Option.some_inj, Option.some_inj]

/-- A window has no candidate when no header stands at any offset with a whole frame's length left. -/
theorem candidates_window_eq_nil {s : State}
    (h : ∀ i, i + 24 ≤ s.len → ¬ (memRead1 s i = 0x42#8 ∧ memRead1 s (i + 1) = 0x4D#8)) :
    candidates (window s) = [] := by
  refine List.eq_nil_iff_forall_not_mem.mpr fun i hi => ?_
  obtain ⟨hlen, hheader⟩ := (cand_window_iff s i).mp ((mem_candidates _ i).mp hi)
  exact h i hlen hheader

theorem selected_eq_none_of_candidates {w : List Byte} (h : candidates w = []) : selected w = none := by
  rw [selected, h]
  rfl

theorem exec_scan_ends_failed {s t : State} {c : Failure} (hr : s.state = .reading) (ht : exec .scan s = .next t)
    (ho : outcome s = .ok (.failed c)) : t.state = c.terminal ∧ t.err = c.err := by
  rw [exec_scan_of_failed hr ho] at ht
  injection ht with ht
  subst ht
  exact ⟨raiseFailure_state c s, raiseFailure_err c s⟩

theorem exec_scan_ends_ok {s t : State} {i : Nat} {f : RawFrame} (hr : s.state = .reading)
    (ht : exec .scan s = .next t) (ho : outcome s = .ok (.ok i f)) : t.state = .success ∧ t.err = .none := by
  rw [(Does.scanOk hr ho).eq_of_exec ht]
  exact ⟨rfl, rfl⟩

/-- Settles O51: in a short window, as in one without a header, there is no candidate; the other cases tell whether a
candidate is selected. -/
theorem scanCornerCases : Obligations.ScanCornerCases := by
  intro s hr hc ho
  obtain ⟨t, ht⟩ := exec_scan_completes hr hc
  have hnone (hl : s.link_err = false) (hn : s.len ≠ 0)
      (h : ∀ i, i + 24 ≤ s.len → ¬ (memRead1 s i = 0x42#8 ∧ memRead1 s (i + 1) = 0x4D#8)) :
      t.state = .noFrame ∧ t.err = .noValidFrameFound := by
    have hcand := candidates_window_eq_nil h
    refine exec_scan_ends_failed (c := .noValidFrameFound) hr ht ?_
    rw [outcome_eq_classify ho hl hn hc, classify_of_none (selected_eq_none_of_candidates hcand) hcand]
  refine ⟨t, ht, fun hl h1 h23 => hnone hl (by omega) fun i hi => by omega,
    fun hl h24 h => hnone hl (by omega) h, fun hl ⟨i, hi⟩ hbad => ?mismatch, fun hl ⟨i, hi, hv⟩ => ?valid,
    fun hl => ?link⟩
  case mismatch =>
    have hmem := (mem_candidates _ i).mpr hi
    have h24 := candidate_le_len hmem
    refine exec_scan_ends_failed (c := .checksumMismatch) hr ht ?_
    rw [outcome_eq_classify ho hl (by omega) hc,
      classify_of_candidate (selected_eq_none.mpr hbad) (List.ne_nil_of_mem hmem)]
  case valid =>
    rcases hs : selected (window s) with _ | ⟨k, f⟩
    · simp [selected_eq_none.mp hs i hi] at hv
    · exact exec_scan_ends_ok hr ht (outcome_of_selected ho hl hc hs)
  case link =>
    refine exec_scan_ends_failed (c := .linkEvent) hr ht ?_
    simp [outcome_of_link_err hl, linkFailure, ho]

/-! ## The outcome of a body (R194, R105, R181) -/

/-- The state after the START of a cycle, with its record answered (R153). -/
def State.started (s : State) : State := emit { flush_req := true } (enterReading s)

theorem exec_start {s : State} (h : s.state = .idle) : exec .start s = .next s.started := exec_of_does (.start h)

/-- Of two blocks with the same parameters the cycles begin alike, whatever the blocks did before. -/
theorem sameCycle_started {s s' : State} (h : s'.cfg = s.cfg) : SameCycle s.started s'.started :=
  ⟨h, rfl, rfl, rfl, rfl, rfl⟩

theorem bodyOutcome_of_run {p : Params} {body : List Instr} {u : State} {o : CycleOutcome}
    (h : runCommands body (State.resetWith p).started = .next u) (ho : outcome u = .ok o) :
    bodyOutcome p body = some o := by
  have hrun : runCommands ([.start] ++ body) (State.resetWith p) = .next u :=
    (runCommands_cons (exec_start rfl) body).trans h
  simp only [bodyOutcome, hrun, ho]

/-- A body without SCAN completes within the cycle, with the outcome it has on the fresh block. -/
theorem runCommands_body {body : List Instr} {s : State} (hwf : s.cfg.wf) (hb : ∀ i ∈ body, i ≠ .scan) :
    ∃ u o, runCommands body s.started = .next u ∧ WithinCycle s.started u ∧ outcome u = .ok o ∧
      bodyOutcome s.cfg body = some o := by
  have hcap : 0 < s.started.cfg.cap := cap_pos_of_wf hwf
  have hempty : s.started.len ≤ s.started.cfg.cap := Nat.zero_le _
  obtain ⟨u, hu, hw⟩ := runCommands_withinCycle body hcap rfl hempty hb
  have hbegin : SameCycle s.started (State.resetWith s.cfg).started := sameCycle_started rfl
  obtain ⟨v, hv, hend⟩ := hbegin.run body hcap rfl hempty hb hu
  obtain ⟨o, ho⟩ := outcome_total hw.len_le
  exact ⟨u, o, hu, hw, ho, bodyOutcome_of_run hv ((hend.outcome_eq hw.len_le).trans ho)⟩

/-- A device event in Reading marks the link error, R181. -/
theorem exec_event_link_err {i : Instr} {s t : State} (h : exec i s = .next t) (hr : s.state = .reading)
    (hi : i ∈ [Instr.evFifoOvf, Instr.evBufFull, Instr.evBreak, Instr.evParity, Instr.evFrame]) :
    t.link_err = true := by
  have hkinds : (i = .evFifoOvf ∨ i = .evBufFull) ∨ (i = .evBreak ∨ i = .evParity ∨ i = .evFrame) := by
    simpa [or_assoc] using hi
  rcases hkinds with hover | hline
  · rw [(Does.overflowEvent hover hr).eq_of_exec h]; rfl
  · rw [(Does.lineEvent hline hr).eq_of_exec h]; rfl

/-- A device event anywhere in a body leaves the link error noted at its end, R184. -/
theorem runCommands_event_link_err {body : List Instr} {s t : State} (h : runCommands body s = .next t)
    (hr : s.state = .reading) (hb : ∀ i ∈ body, i ≠ .scan)
    (he : ∃ i ∈ body, i ∈ [Instr.evFifoOvf, Instr.evBufFull, Instr.evBreak, Instr.evParity, Instr.evFrame]) :
    t.link_err = true := by
  induction body generalizing s with
  | nil => simp at he
  | cons i body ih =>
    obtain ⟨u, hu, hrun⟩ := runCommands_cons_eq_next h
    obtain ⟨hi, hrest⟩ := List.forall_mem_cons.mp hb
    have hur := exec_keeps_reading hu hr hi
    rcases (List.exists_mem_cons_iff _ _ _).mp he with hev | hlater
    · exact (runCommands_keeps_link_err hrun hur (exec_event_link_err hu hr hev) hrest).2
    · exact ih hrun hur hrest hlater

/-- Settles O56: the run on the block and the run on the fresh one end alike; an event leaves `link_err` set; and pushes
leave the flags and the window that R105 tells. -/
theorem cycleOutcomeIsDecidedByItsBody : Obligations.CycleOutcomeIsDecidedByItsBody := by
  intro body s hwf hidle hb
  obtain ⟨u, o, hu, hw, ho, hbody⟩ := runCommands_body hwf hb
  have hdecided {x : CycleOutcome} (hx : outcome u = .ok x) : bodyOutcome s.cfg body = some x := by
    rw [ho] at hx
    injection hx with hx
    rw [hbody, hx]
  refine ⟨⟨u, o, (runCommands_cons (exec_start hidle) body).trans hu, hw.reading, ho, hbody⟩,
    fun hev => ?event, ?pushes⟩
  case event =>
    have hfail := hdecided (outcome_of_link_err (runCommands_event_link_err hu rfl hb hev))
    cases hovf : u.ovf <;> simp [hfail, linkFailure, hovf]
  case pushes =>
    rintro bs rfl
    obtain ⟨t, ht, -, hfits, hover, -⟩ := windowAfterPushes bs s.started hwf rfl rfl
    obtain rfl : u = t := by rw [hu] at ht; injection ht
    obtain ⟨hlink, -, -⟩ := runCommands_appendCmds_keeps hu
    obtain ⟨hfull, -, hempty, hscan⟩ := outcomePriority u hw.len_le
    refine ⟨fun hgt => hdecided (hfull (hover hgt).1), fun hnil => ?_, fun hne hle => ?_⟩
    · obtain ⟨hwin, hovf⟩ := hfits (by simp [hnil])
      exact hdecided (hempty hovf hlink (by rw [← window_length, hwin, hnil, List.length_nil]))
    · obtain ⟨hwin, hovf⟩ := hfits hle
      have hlen : u.len ≠ 0 := by rwa [← window_length, hwin, Ne, List.length_eq_zero_iff]
      obtain ⟨hvalid, hmismatch, hnoFrame⟩ := hscan hovf hlink hlen
      rw [hwin] at hvalid hmismatch hnoFrame
      refine ⟨fun i hi => ?_, fun hn hc => hdecided (hmismatch hn hc), fun hn hc => hdecided (hnoFrame hn hc)⟩
      obtain ⟨f, hf, hok⟩ := hvalid i hi
      exact ⟨f, hf, hdecided hok⟩

/-! ## One failure, counted modulo `THRESHOLD + 1` -/

theorem chanResets_cons (o : Out) (os : List Out) :
    chanResets (o :: os) = chanResets os + if o.chan_reset_req then 1 else 0 :=
  List.countP_cons

section
variable {s : State}

/-- With a count that R35 (b) allows, only the failure after `THRESHOLD` others escalates. -/
theorem threshold_eq_of_escalates (hle : s.consecutive_failures.toNat ≤ s.cfg.threshold) (he : escalates s = true) :
    s.cfg.threshold = s.consecutive_failures.toNat :=
  Nat.le_antisymm (Nat.le_of_lt_succ (escalates_eq_true.mp he)) hle

theorem raiseFailure_failures_toNat (hwf : s.cfg.wf) (hle : s.consecutive_failures.toNat ≤ s.cfg.threshold)
    (c : Failure) :
    (raiseFailure c s).consecutive_failures.toNat = (s.consecutive_failures.toNat + 1) % (s.cfg.threshold + 1) := by
  cases he : escalates s with
  | true =>
    rw [raiseFailure_of_escalates he, threshold_eq_of_escalates hle he, Nat.mod_self]
    rfl
  | false =>
    have hroom := escalates_eq_false.mp he
    obtain ⟨-, -, h254⟩ := hwf
    rw [raiseFailure_of_not_escalates he, Nat.mod_eq_of_lt (Nat.lt_succ_of_le hroom), emit_consecutive_failures,
      setFailures_consecutive_failures, BitVec.toNat_ofNat]
    exact Nat.mod_eq_of_lt (by unfold failuresPlusOne; omega)

theorem raiseFailure_chanResets (hle : s.consecutive_failures.toNat ≤ s.cfg.threshold) (c : Failure) :
    chanResets (raiseFailure c s).trace =
      chanResets s.trace + (s.consecutive_failures.toNat + 1) / (s.cfg.threshold + 1) := by
  cases he : escalates s with
  | true =>
    rw [raiseFailure_of_escalates he, threshold_eq_of_escalates hle he, Nat.div_self (Nat.succ_pos _)]
    exact chanResets_cons _ _
  | false =>
    rw [raiseFailure_of_not_escalates he, Nat.div_eq_of_lt (Nat.lt_succ_of_le (escalates_eq_false.mp he))]
    exact chanResets_cons _ _

theorem raiseFailure_healthy (c : Failure) :
    (raiseFailure c s).healthy = (s.healthy && decide (s.consecutive_failures.toNat + 1 ≤ s.cfg.threshold)) := by
  cases he : escalates s with
  | true =>
    rw [raiseFailure_of_escalates he, decide_eq_false (Nat.not_le.mpr (escalates_eq_true.mp he)), Bool.and_false]
    rfl
  | false =>
    rw [raiseFailure_of_not_escalates he, decide_eq_true (escalates_eq_false.mp he), Bool.and_true]
    rfl

end

/-! ## Cycles that keep failing (R199, R200) -/

/-- The block between two cycles: in Idle with no stop noted, and with a failure count that R35 (b) allows. -/
structure BetweenCycles (s : State) : Prop where
  wf : s.cfg.wf
  idle : s.state = .idle
  stop_req : s.stop_req = false
  failures_le : s.consecutive_failures.toNat ≤ s.cfg.threshold

/-- `t` is what `n` failing cycles make of `s`: with the failures counted on from those of `s`, every `THRESHOLD + 1` of
them make one channel reset. -/
structure FailedCycles (s : State) (n : Nat) (t : State) : Prop where
  between : BetweenCycles t
  cfg : t.cfg = s.cfg
  failures : t.consecutive_failures.toNat = (s.consecutive_failures.toNat + n) % (s.cfg.threshold + 1)
  resets : chanResets t.trace =
    chanResets s.trace + (s.consecutive_failures.toNat + n) / (s.cfg.threshold + 1)
  healthy : t.healthy = (s.healthy && decide (s.consecutive_failures.toNat + n ≤ s.cfg.threshold))
  pm1 : t.pm1 = s.pm1
  pm2_5 : t.pm2_5 = s.pm2_5
  pm10 : t.pm10 = s.pm10
  sample_count : t.sample_count = s.sample_count

theorem FailedCycles.refl {s : State} (h : BetweenCycles s) : FailedCycles s 0 s where
  between := h
  cfg := rfl
  failures := (Nat.mod_eq_of_lt (Nat.lt_succ_of_le h.failures_le)).symm
  resets := by rw [Nat.add_zero, Nat.div_eq_of_lt (Nat.lt_succ_of_le h.failures_le), Nat.add_zero]
  healthy := by simp [h.failures_le]
  pm1 := rfl
  pm2_5 := rfl
  pm10 := rfl
  sample_count := rfl

/-- Counting on from a remainder: the multiples of `d` passed by `a` and those passed after it. -/
theorem div_add_mod_add_div (a n : Nat) {d : Nat} (hd : 0 < d) : a / d + (a % d + n) / d = (a + n) / d :=
  calc a / d + (a % d + n) / d
    _ = (a % d + n + d * (a / d)) / d := by rw [Nat.add_mul_div_left _ _ hd, Nat.add_comm]
    _ = (a + n) / d := by rw [Nat.add_right_comm, Nat.mod_add_div]

/-- No multiple of `d + 1` is passed in all if none is passed by `a` and none after it. -/
theorem add_le_and_mod_add_le_iff (a n d : Nat) : (a ≤ d ∧ a % (d + 1) + n ≤ d) ↔ a + n ≤ d := by
  constructor
  · rintro ⟨ha, hn⟩
    rwa [Nat.mod_eq_of_lt (Nat.lt_succ_of_le ha)] at hn
  · intro hn
    have ha : a ≤ d := Nat.le_of_add_right_le hn
    exact ⟨ha, by rwa [Nat.mod_eq_of_lt (Nat.lt_succ_of_le ha)]⟩

theorem FailedCycles.trans {s t u : State} {m n : Nat} (h : FailedCycles s m t) (k : FailedCycles t n u) :
    FailedCycles s (m + n) u where
  between := k.between
  cfg := k.cfg.trans h.cfg
  failures := by rw [k.failures, h.failures, h.cfg, Nat.mod_add_mod, Nat.add_assoc]
  resets := by
    rw [k.resets, h.resets, h.failures, h.cfg, Nat.add_assoc, div_add_mod_add_div _ _ (Nat.succ_pos _), Nat.add_assoc]
  healthy := by
    have hnone := add_le_and_mod_add_le_iff (s.consecutive_failures.toNat + m) n s.cfg.threshold
    rw [Nat.add_assoc] at hnone
    rw [k.healthy, h.healthy, h.failures, h.cfg, Bool.and_assoc, ← Bool.decide_and, decide_eq_decide.mpr hnone]
  pm1 := k.pm1.trans h.pm1
  pm2_5 := k.pm2_5.trans h.pm2_5
  pm10 := k.pm10.trans h.pm10
  sample_count := k.sample_count.trans h.sample_count

/-- Only NEXT and STOP write `stop_req` (R27), and NEXT is not for Reading. -/
theorem exec_keeps_stop_req {i : Instr} {s t : State} (h : exec i s = .next t) (hr : s.state = .reading)
    (hi : i ≠ .scan ∧ i ≠ .stop) : t.stop_req = s.stop_req := by
  have htr := exec_keeps_reading h hr hi.1
  obtain ⟨o, u, hd, rfl⟩ := exec_eq_next h
  by_contra hne
  rcases hd.stop_req_writers hne with ⟨-, hstopped, -⟩ | ⟨hstop, -⟩
  · exact absurd (htr.symm.trans hstopped) nofun
  · exact hi.2 hstop

theorem runCommands_keeps_stop_req {body : List Instr} {s t : State} (h : runCommands body s = .next t)
    (hr : s.state = .reading) (hb : ∀ i ∈ body, i ≠ .scan ∧ i ≠ .stop) : t.stop_req = s.stop_req := by
  induction body generalizing s with
  | nil => injection h with h; rw [h]
  | cons i body ih =>
    obtain ⟨u, hu, hrun⟩ := runCommands_cons_eq_next h
    obtain ⟨hi, hrest⟩ := List.forall_mem_cons.mp hb
    exact (ih hrun (exec_keeps_reading hu hr hi.1) hrest).trans (exec_keeps_stop_req hu hr hi)

/-- A failure raised at the end of a cycle's body, and left by NEXT: the body has kept all that is counted with. -/
theorem failedCycles_raiseFailure {s u : State} (h : BetweenCycles s) (hw : WithinCycle s.started u)
    (hstop : u.stop_req = false) (c : Failure) :
    FailedCycles s 1 (emit Out.quiet (leaveTerminal (raiseFailure c u))) := by
  have hcfg : u.cfg = s.cfg := hw.cfg
  have hcount : u.consecutive_failures = s.consecutive_failures := hw.consecutive_failures
  have hresets : chanResets u.trace = chanResets s.trace := hw.chanResets.trans (chanResets_cons _ _)
  have hle : u.consecutive_failures.toNat ≤ u.cfg.threshold := by rw [hcount, hcfg]; exact h.failures_le
  have hcfg' : (leaveTerminal (raiseFailure c u)).cfg = s.cfg := by simp [hcfg]
  have hfailures : (leaveTerminal (raiseFailure c u)).consecutive_failures.toNat =
      (s.consecutive_failures.toNat + 1) % (s.cfg.threshold + 1) := by
    rw [leaveTerminal_consecutive_failures, raiseFailure_failures_toNat (hcfg ▸ h.wf) hle, hcount, hcfg]
  have hbetween : BetweenCycles (emit Out.quiet (leaveTerminal (raiseFailure c u))) :=
    { wf := by rw [emit_cfg, hcfg']; exact h.wf
      idle := by simp [hstop]
      stop_req := leaveTerminal_stop_req _
      failures_le := by
        rw [emit_consecutive_failures, hfailures, emit_cfg, hcfg']
        exact Nat.le_of_lt_succ (Nat.mod_lt _ (Nat.succ_pos _)) }
  exact
    { between := hbetween
      cfg := hcfg'
      failures := hfailures
      resets := by
        rw [emit_trace, chanResets_cons, leaveTerminal_trace, raiseFailure_chanResets hle, hresets, hcount, hcfg]
        rfl
      healthy := by
        rw [emit_healthy, leaveTerminal_healthy, raiseFailure_healthy, hw.healthy, hcount, hcfg]
        rfl
      pm1 := (leaveTerminal_pm1 _).trans ((raiseFailure_pm1 c u).trans hw.pm1)
      pm2_5 := (leaveTerminal_pm2_5 _).trans ((raiseFailure_pm2_5 c u).trans hw.pm2_5)
      pm10 := (leaveTerminal_pm10 _).trans ((raiseFailure_pm10 c u).trans hw.pm10)
      sample_count := (leaveTerminal_sample_count _).trans ((raiseFailure_sample_count c u).trans hw.sample_count) }

/-- A cycle whose body fails it completes, with the failure's code in `err`. -/
theorem runCommands_failing_cycle {body : List Instr} {s : State} {c : Failure} (h : BetweenCycles s)
    (hb : ∀ i ∈ body, i ≠ .scan ∧ i ≠ .stop) (hc : bodyOutcome s.cfg body = some (.failed c)) :
    ∃ t, runCommands (cycleCmds body) s = .next t ∧ t.err = c.err ∧ FailedCycles s 1 t := by
  obtain ⟨u, o, hu, hw, ho, hbody⟩ := runCommands_body h.wf fun i hi => (hb i hi).1
  obtain rfl : o = .failed c := Option.some.inj (hbody.symm.trans hc)
  have hstop : u.stop_req = false := (runCommands_keeps_stop_req hu rfl hb).trans h.stop_req
  have hscan := exec_scan_of_failed hw.reading ho
  have hnext := exec_of_does (.next (s := raiseFailure c u) (by simp))
  have hrun : runCommands (cycleCmds body) s = .next (emit Out.quiet (leaveTerminal (raiseFailure c u))) :=
    calc runCommands (cycleCmds body) s
      _ = runCommands (body ++ [Instr.scan, .next]) s.started := runCommands_cons (exec_start h.idle) _
      _ = runCommands [.scan, .next] u := runCommands_append hu
      _ = runCommands [.next] (raiseFailure c u) := runCommands_cons hscan _
      _ = .next (emit Out.quiet (leaveTerminal (raiseFailure c u))) := runCommands_cons hnext []
  exact ⟨_, hrun, by simp, failedCycles_raiseFailure h hw hstop c⟩

/-- Failing cycles one after the other, by induction on the list of their bodies. -/
theorem runCommands_failing_cycles {bodies : List (List Instr)} {s : State} (h : BetweenCycles s)
    (hb : ∀ b ∈ bodies, (∀ i ∈ b, i ≠ .scan ∧ i ≠ .stop) ∧ ∃ c, bodyOutcome s.cfg b = some (.failed c)) :
    ∃ t, runCommands (bodies.flatMap cycleCmds) s = .next t ∧ FailedCycles s bodies.length t := by
  induction bodies generalizing s with
  | nil => exact ⟨s, rfl, .refl h⟩
  | cons b bodies ih =>
    obtain ⟨⟨hcmds, c, hc⟩, hrest⟩ := List.forall_mem_cons.mp hb
    obtain ⟨t, ht, -, hone⟩ := runCommands_failing_cycle h hcmds hc
    obtain ⟨u, hu, hmany⟩ := ih hone.between (by rwa [hone.cfg])
    rw [List.flatMap_cons, runCommands_append ht, List.length_cons, Nat.add_comm]
    exact ⟨u, hu, hone.trans hmany⟩

/-- Settles O54: counted from a failure count of 0, the failures are the cycles. -/
theorem sustainedFailureEscalatesPeriodically : Obligations.SustainedFailureEscalatesPeriodically := by
  intro bodies s hwf hidle hstop hzero hb
  obtain ⟨t, ht, h⟩ := runCommands_failing_cycles ⟨hwf, hidle, hstop, hzero ▸ Nat.zero_le _⟩ hb
  obtain ⟨hbetween, -, hfailures, hresets, hhealthy, h1, h25, h10, hcount⟩ := h
  simp only [hzero, BitVec.toNat_ofNat, Nat.zero_mod, Nat.zero_add] at hfailures hresets hhealthy
  exact ⟨t, ht, hfailures, hresets, hhealthy, hbetween.idle, h1, h25, h10, hcount⟩

/-- A cycle over a window with a candidate but no valid frame fails with `ChecksumMismatch`. -/
theorem runCommands_mismatch_cycle {bs : List Byte} {s : State} (h : BetweenCycles s)
    (hbs : bs.length ≤ s.cfg.cap ∧ candidates bs ≠ [] ∧ firstValid bs = none) :
    ∃ t, runCommands (cycleCmds (appendCmds bs)) s = .next t ∧ t.err = .checksumMismatch ∧ FailedCycles s 1 t := by
  obtain ⟨hlen, hcand, hnone⟩ := hbs
  have hcmds : ∀ i ∈ appendCmds bs, i ≠ .scan ∧ i ≠ .stop := by simp [appendCmds]
  have hne : bs ≠ [] := by rintro rfl; exact hcand rfl
  obtain ⟨-, -, hpushes⟩ := cycleOutcomeIsDecidedByItsBody (appendCmds bs) s h.wf h.idle fun i hi => (hcmds i hi).1
  obtain ⟨-, -, hscan⟩ := hpushes bs rfl
  obtain ⟨-, hmismatch, -⟩ := hscan hne hlen
  exact runCommands_failing_cycle h hcmds (hmismatch hnone hcand)

/-- Settles O53: one, two and three failing cycles at `THRESHOLD` 2. -/
theorem threeChecksumFailuresResetOnce : Obligations.ThreeChecksumFailuresResetOnce := by
  intro b₁ b₂ b₃ s hwf hthreshold hidle hstop hzero hb
  obtain ⟨hb₁, hb₂, hb₃, -⟩ : _ ∧ _ ∧ _ ∧ _ := by simpa only [List.forall_mem_cons] using hb
  obtain ⟨t₁, ht₁, he₁, h₁⟩ := runCommands_mismatch_cycle ⟨hwf, hidle, hstop, hzero ▸ Nat.zero_le _⟩ hb₁
  obtain ⟨t₂, ht₂, he₂, h₂⟩ := runCommands_mismatch_cycle (bs := b₂) h₁.between (by rwa [h₁.cfg])
  have h₁₂ := h₁.trans h₂
  obtain ⟨t₃, ht₃, he₃, h₃⟩ := runCommands_mismatch_cycle (bs := b₃) h₁₂.between (by rwa [h₁₂.cfg])
  have h₁₂₃ := h₁₂.trans h₃
  have hcount {t : State} {n : Nat} (h : FailedCycles s n t) : t.consecutive_failures.toNat = n % 3 := by
    simpa [hzero, hthreshold] using h.failures
  have hresets {t : State} {n : Nat} (h : FailedCycles s n t) : chanResets t.trace = chanResets s.trace + n / 3 := by
    simpa [hzero, hthreshold] using h.resets
  have hhealthy : t₃.healthy = false := by simpa [hzero, hthreshold] using h₁₂₃.healthy
  exact ⟨t₁, t₂, t₃, ht₁, ht₂, ht₃, he₁, he₂, he₃, BitVec.eq_of_toNat_eq (hcount h₁),
    BitVec.eq_of_toNat_eq (hcount h₁₂), BitVec.eq_of_toNat_eq (hcount h₁₂₃), hresets h₁, hresets h₁₂, hresets h₁₂₃,
    h₁.sample_count, h₁₂.sample_count, h₁₂₃.sample_count, hhealthy⟩

end Sys2Proof.Machine
end
